-- ==== Sys2Proof/Word.lean ====
section
/-! DEFINITION. The plain data words of the block: a byte, a transaction word, a stereo frame, and a
pair of like things kept per direct-sound FIFO (spec 00_scope.md R10, R11, R13; 20_memory.md R89). -/

namespace Sys2Proof

/-- One byte of the register window, of a direct-sound FIFO or of the host buffer (R10, R84). -/
abbrev Byte := BitVec 8

/-- One transaction word (R120). -/
abbrev TxWord := BitVec 16

/-- A stereo frame: a pair of exact rationals (R13). -/
structure Frame where
  left : Rat
  right : Rat
  deriving DecidableEq, Repr

/-- The number of a direct-sound FIFO, 0 or 1 (R89, R277). -/
inductive FifoId where
  | fifo0
  | fifo1
  deriving DecidableEq, Repr

/-- Two like things, one per direct-sound FIFO or per square channel (R45, R60). -/
structure PerFifo (α : Type) where
  zero : α
  one : α
  deriving DecidableEq, Repr

/-- The component of FIFO `i`. -/
def PerFifo.get {α : Type} (p : PerFifo α) (i : FifoId) : α :=
  match i with
  | .fifo0 => p.zero
  | .fifo1 => p.one

/-- The pair with the component of FIFO `i` replaced. -/
def PerFifo.set {α : Type} (p : PerFifo α) (i : FifoId) (v : α) : PerFifo α :=
  match i with
  | .fifo0 => { p with zero := v }
  | .fifo1 => { p with one := v }

end Sys2Proof
end

