-- ==== Sys2Proof/Syntax.lean ====
section
/-! DEFINITION. The block's "instructions": its port transactions and its internal scheduled events,
one constructor per row of spec/opcode_table.json (spec 00_scope.md R3; 30_encoding.md R125). -/

namespace Sys2Proof

/-- A transaction or an event. The two counts are `Nat`, as R275 and R310 have them; what a word can
carry of them is `Instr.wellFormed` (R121, R277). -/
inductive Instr where
  /-- `NOISE_RD0`, R151. -/
  | noiseRd0
  /-- `NOISE_RD1`, R152. -/
  | noiseRd1
  /-- `NOISE_RD2`, R153. -/
  | noiseRd2
  /-- `NOISE_RD3`, R154. -/
  | noiseRd3
  /-- `NOISE_RD4`, R155. -/
  | noiseRd4
  /-- `NOISE_RD5`, R156. -/
  | noiseRd5
  /-- `NOISE_RD6`, R157. -/
  | noiseRd6
  /-- `NOISE_RD7`, R158. -/
  | noiseRd7
  /-- `NOISE_WR0`, R160: data byte `d`. -/
  | noiseWr0 (d : Byte)
  /-- `NOISE_WR1`, R161. -/
  | noiseWr1 (d : Byte)
  /-- `NOISE_WR2`, R167. -/
  | noiseWr2 (d : Byte)
  /-- `NOISE_WR3`, R168. -/
  | noiseWr3 (d : Byte)
  /-- `NOISE_WR4`, R169. -/
  | noiseWr4 (d : Byte)
  /-- `NOISE_WR5`, R170. -/
  | noiseWr5 (d : Byte)
  /-- `NOISE_WR6`, R176. -/
  | noiseWr6 (d : Byte)
  /-- `NOISE_WR7`, R177. -/
  | noiseWr7 (d : Byte)
  /-- `BIAS_WR`, R271: level `l` and resolution `r`. -/
  | biasWr (l : BitVec 10) (r : BitVec 2)
  /-- `LATCH_FIFO`, R275: FIFO id `i` and drain count `t`. -/
  | latchFifo (i : FifoId) (t : Nat)
  /-- `HOST_PULL`, R310: byte length `n`. -/
  | hostPull (n : Nat)
  /-- `RESET`, R360. -/
  | reset
  /-- `EV_GENERATE`, R200: SCHED fires the pending `GENERATE` event. -/
  | evGenerate
  /-- `EV_TICK`, R280: SCHED fires the pending `TICK` event. -/
  | evTick
  /-- `EV_SEQ`, R258: SCHED fires the pending `SEQ` event. -/
  | evSeq
  /-- `EV_LENGTH_CLOCK`, R250. -/
  | evLengthClock
  /-- `EV_ENVELOPE_CLOCK`, R255. -/
  | evEnvelopeClock
  deriving DecidableEq, Repr

end Sys2Proof
end

