-- ==== Sys2Proof/WellFormed.lean ====
section
/-! DEFINITION. Which instructions a transaction word can carry: the two counts that the syntax holds
as `Nat` must fit their fields (spec 30_encoding.md R121; 43_audio_unit.md R277). -/

namespace Sys2Proof

/-- The drain count fits 8 bits and the byte length fits 12 bits. -/
def Instr.wellFormed : Instr → Bool
  | .noiseRd0 => true
  | .noiseRd1 => true
  | .noiseRd2 => true
  | .noiseRd3 => true
  | .noiseRd4 => true
  | .noiseRd5 => true
  | .noiseRd6 => true
  | .noiseRd7 => true
  | .noiseWr0 _ => true
  | .noiseWr1 _ => true
  | .noiseWr2 _ => true
  | .noiseWr3 _ => true
  | .noiseWr4 _ => true
  | .noiseWr5 _ => true
  | .noiseWr6 _ => true
  | .noiseWr7 _ => true
  | .biasWr _ _ => true
  | .latchFifo _ t => decide (t < 256)
  | .hostPull n => decide (n < 4096)
  | .reset => true
  | .evGenerate => true
  | .evTick => true
  | .evSeq => true
  | .evLengthClock => true
  | .evEnvelopeClock => true

end Sys2Proof
end

