-- ==== Sys2Proof/Decode.lean ====
section
/-! DEFINITION. The transaction word: decoding, total on all 65536 words and rejecting by name, and
the encoder (spec 30_encoding.md R120 to R125). -/

namespace Sys2Proof

/-- Why a word decodes to nothing (R122). -/
inductive DecodeError where
  /-- Port 0x6, 0x7, 0xD, 0xE or 0xF. -/
  | reservedPort
  /-- A nonzero bit in a field that R120 marks "= 0". -/
  | reservedBits
  deriving DecidableEq, Repr

/-- The port field `p`, bits 15:12 (R120). -/
def portField (w : TxWord) : BitVec 4 := w.extractLsb' 12 4

/-- The offset field `o`, bits 10:8 (R121). -/
def offsetField (w : TxWord) : BitVec 3 := w.extractLsb' 8 3

/-- The data field `d`, and the drain count `t`, bits 7:0 (R121). -/
def dataField (w : TxWord) : Byte := w.extractLsb' 0 8

/-- Bits 11:0: the byte length `n` of `HOST_PULL`, and the must-be-zero field of the words without
operands (R120). -/
def lowField (w : TxWord) : BitVec 12 := w.extractLsb' 0 12

/-- The level field `l`, bits 11:2 (R121). -/
def levelField (w : TxWord) : BitVec 10 := w.extractLsb' 2 10

/-- The resolution field `r`, bits 1:0 (R121). -/
def resolutionField (w : TxWord) : BitVec 2 := w.extractLsb' 0 2

/-- The FIFO id field `i`, bit 8 (R121). -/
def fifoField (w : TxWord) : FifoId := if w.extractLsb' 8 1 = 0#1 then .fifo0 else .fifo1

/-- A value, unless a must-be-zero field is not zero (R122). -/
def unlessReserved (zero : Bool) (i : Instr) : Except DecodeError Instr :=
  if zero then .ok i else .error .reservedBits

/-- The register-window read at offset `o` (R125). -/
def noiseRead (o : BitVec 3) : Instr :=
  if o = 0 then .noiseRd0 else if o = 1 then .noiseRd1 else if o = 2 then .noiseRd2
  else if o = 3 then .noiseRd3 else if o = 4 then .noiseRd4 else if o = 5 then .noiseRd5
  else if o = 6 then .noiseRd6 else .noiseRd7

/-- The register-window write at offset `o` (R125). -/
def noiseWrite (o : BitVec 3) (d : Byte) : Instr :=
  if o = 0 then .noiseWr0 d else if o = 1 then .noiseWr1 d else if o = 2 then .noiseWr2 d
  else if o = 3 then .noiseWr3 d else if o = 4 then .noiseWr4 d else if o = 5 then .noiseWr5 d
  else if o = 6 then .noiseWr6 d else .noiseWr7 d

/-- Decoding of a transaction word: the port selects the format (R120, R122, R124). -/
def decode (w : TxWord) : Except DecodeError Instr :=
  let p := portField w
  let bit11 := w.extractLsb' 11 1
  let empty := decide (lowField w = 0)
  if p = 0x0 then unlessReserved (bit11 = 0 && dataField w = 0) (noiseRead (offsetField w))
  else if p = 0x1 then unlessReserved (bit11 = 0) (noiseWrite (offsetField w) (dataField w))
  else if p = 0x2 then .ok (.biasWr (levelField w) (resolutionField w))
  else if p = 0x3 then
    unlessReserved (w.extractLsb' 9 3 = 0) (.latchFifo (fifoField w) (dataField w).toNat)
  else if p = 0x4 then .ok (.hostPull (lowField w).toNat)
  else if p = 0x5 then unlessReserved empty .reset
  else if p = 0x8 then unlessReserved empty .evGenerate
  else if p = 0x9 then unlessReserved empty .evTick
  else if p = 0xA then unlessReserved empty .evSeq
  else if p = 0xB then unlessReserved empty .evLengthClock
  else if p = 0xC then unlessReserved empty .evEnvelopeClock
  else .error .reservedPort

/-- The instruction of a word numbered as spec/opcode_table.json numbers it: the row's `nbits` low
bits, every bit above them zero. Every instruction is one 16-bit word, delivered whole (R124). -/
def decodeTableWord (nbits w : Nat) : Option Instr :=
  if w % 2 ^ nbits < 65536 then
    match decode (BitVec.ofNat 16 (w % 2 ^ nbits)) with
    | .ok i => some i
    | .error _ => none
  else none

/-- The word of a register-window read (R120, port 0x0). -/
def readWord (o : BitVec 3) : TxWord := 0x0#4 ++ 0#1 ++ o ++ 0#8

/-- The word of a register-window write (R120, port 0x1). -/
def writeWord (o : BitVec 3) (d : Byte) : TxWord := 0x1#4 ++ 0#1 ++ o ++ d

/-- The word of a format whose bits 11:0 are zero (R120). -/
def portWord (p : BitVec 4) : TxWord := p ++ 0#12

/-- The one-bit FIFO id (R120, port 0x3). -/
def fifoBit : FifoId → BitVec 1
  | .fifo0 => 0
  | .fifo1 => 1

/-- The encoder, written from the format table of R120. -/
def encode : Instr → TxWord
  | .noiseRd0 => readWord 0
  | .noiseRd1 => readWord 1
  | .noiseRd2 => readWord 2
  | .noiseRd3 => readWord 3
  | .noiseRd4 => readWord 4
  | .noiseRd5 => readWord 5
  | .noiseRd6 => readWord 6
  | .noiseRd7 => readWord 7
  | .noiseWr0 d => writeWord 0 d
  | .noiseWr1 d => writeWord 1 d
  | .noiseWr2 d => writeWord 2 d
  | .noiseWr3 d => writeWord 3 d
  | .noiseWr4 d => writeWord 4 d
  | .noiseWr5 d => writeWord 5 d
  | .noiseWr6 d => writeWord 6 d
  | .noiseWr7 d => writeWord 7 d
  | .biasWr l r => 0x2#4 ++ l ++ r
  | .latchFifo i t => 0x3#4 ++ 0#3 ++ fifoBit i ++ BitVec.ofNat 8 t
  | .hostPull n => 0x4#4 ++ BitVec.ofNat 12 n
  | .reset => portWord 0x5
  | .evGenerate => portWord 0x8
  | .evTick => portWord 0x9
  | .evSeq => portWord 0xA
  | .evLengthClock => portWord 0xB
  | .evEnvelopeClock => portWord 0xC

/-- The fixed bits of an instruction's row of the opcode table (R125, column match). -/
def rowMatch : Instr → TxWord
  | .noiseRd0 => 0x0000
  | .noiseRd1 => 0x0100
  | .noiseRd2 => 0x0200
  | .noiseRd3 => 0x0300
  | .noiseRd4 => 0x0400
  | .noiseRd5 => 0x0500
  | .noiseRd6 => 0x0600
  | .noiseRd7 => 0x0700
  | .noiseWr0 _ => 0x1000
  | .noiseWr1 _ => 0x1100
  | .noiseWr2 _ => 0x1200
  | .noiseWr3 _ => 0x1300
  | .noiseWr4 _ => 0x1400
  | .noiseWr5 _ => 0x1500
  | .noiseWr6 _ => 0x1600
  | .noiseWr7 _ => 0x1700
  | .biasWr _ _ => 0x2000
  | .latchFifo _ _ => 0x3000
  | .hostPull _ => 0x4000
  | .reset => 0x5000
  | .evGenerate => 0x8000
  | .evTick => 0x9000
  | .evSeq => 0xA000
  | .evLengthClock => 0xB000
  | .evEnvelopeClock => 0xC000

/-- Which bits of an instruction's word its row fixes (R125, column mask). -/
def rowMask : Instr → TxWord
  | .noiseRd0 => 0xFFFF
  | .noiseRd1 => 0xFFFF
  | .noiseRd2 => 0xFFFF
  | .noiseRd3 => 0xFFFF
  | .noiseRd4 => 0xFFFF
  | .noiseRd5 => 0xFFFF
  | .noiseRd6 => 0xFFFF
  | .noiseRd7 => 0xFFFF
  | .noiseWr0 _ => 0xFF00
  | .noiseWr1 _ => 0xFF00
  | .noiseWr2 _ => 0xFF00
  | .noiseWr3 _ => 0xFF00
  | .noiseWr4 _ => 0xFF00
  | .noiseWr5 _ => 0xFF00
  | .noiseWr6 _ => 0xFF00
  | .noiseWr7 _ => 0xFF00
  | .biasWr _ _ => 0xF000
  | .latchFifo _ _ => 0xFE00
  | .hostPull _ => 0xF000
  | .reset => 0xFFFF
  | .evGenerate => 0xFFFF
  | .evTick => 0xFFFF
  | .evSeq => 0xFFFF
  | .evLengthClock => 0xFFFF
  | .evEnvelopeClock => 0xFFFF

end Sys2Proof
end

