-- ==== Sys2Proof/Config.lean ====
section
/-! DEFINITION. What an implementation fixes and what the spec leaves open: constants with no body,
so that nothing in Lean can prove a value of one. The functions of a `Nat` are draws: the machine
applies them to its own counter `State.draws` and advances it (spec 93_implementation_defined.md
list I: "any value: a draw under no law"). -/

namespace Sys2Proof

/-- One less than the host device's rate (R8 `HOST_RATE`: open, a positive integer in Hz). -/
opaque Config.hostRatePred : Nat

/-- The host device's rate in Hz, positive (R8, I10; log entry 8, DESIGN CHOICE, safe). -/
def Config.hostRate : Nat := Config.hostRatePred + 1

/-- One less than the ring buffer's capacity (R8 `RING_CAPACITY`: open, a positive integer). -/
opaque Config.ringCapacityPred : Nat

/-- The ring buffer's capacity in frames, positive (R8, I11; log entry 8, DESIGN CHOICE, safe). -/
def Config.ringCapacity : Nat := Config.ringCapacityPred + 1

/-- FREE VALUE: how much later than it could an event fires (R343, I8; log entry 3, DESIGN CHOICE,
safe). -/
opaque Config.lateness : Nat → Nat

/-- FREE VALUE: which of the events with the smallest deadline fires first under the open `TIE_ORDER`
(R344, I6; log entry 1, DESIGN CHOICE, safe). -/
opaque Config.tieChoice : Nat → Nat

/-- FREE VALUE: whether an event due at a transaction's own cycle fires before it under the open
`CPU_SYNC` (R345, I7; log entry 2, DESIGN CHOICE, safe). -/
opaque Config.eventFirst : Nat → Bool

/-- FREE VALUE: the byte a drain of an empty direct-sound FIFO latches (R89, I13; log entry 4, DESIGN
CHOICE, safe). -/
opaque Config.emptyFifoByte : Nat → Byte

/-- FREE VALUE: the bytes that the DMA subsystem has put into a FIFO since the FIFO was last looked
at (R89, R335: the refill is outside the block; log entry 5, DESIGN CHOICE, unsafe). -/
opaque Config.dmaArrivals : FifoId → Nat → List Byte

/-- FREE VALUE: the sample a square channel presents when a Tick fires (R283, I14; log entry 6,
DESIGN CHOICE, safe). -/
opaque Config.squareSample : FifoId → Nat → Byte

/-- FREE VALUE: whether HOST moves before the emulation context does (R351, R352, I18; log entry 12,
DESIGN CHOICE, safe). -/
opaque Config.hostTurn : Nat → Bool

/-- FREE VALUE: whether the external frame sequencer moves before the block's own agents do (R259; log
entry 29, DESIGN CHOICE, safe). -/
opaque Config.clockTurn : Nat → Bool

/-- FREE VALUE: whether the external frame sequencer's next clock is an envelope clock (R259; log entry
29, DESIGN CHOICE, safe). -/
opaque Config.envelopeClockNext : Nat → Bool

/-- FREE VALUE: how many cycles pass before the external frame sequencer's next clock (R259; log entry
29, DESIGN CHOICE, safe). -/
opaque Config.clockDelay : Nat → Nat

/-- FREE VALUE: how many frames the HOST agent asks for in a pull that no program lists (R351, I18; log
entry 27, DESIGN CHOICE, safe). -/
opaque Config.hostFrames : Nat → Nat

/-- FREE VALUE: how many steps HOST takes before one `RbWrite` of a Tick (R351, R352; log entry 12,
DESIGN CHOICE, safe). -/
opaque Config.hostSteps : Nat → Nat

/-- FREE VALUE: whether the host device's `Open` succeeds (R331, I15; log entry 7, DESIGN CHOICE,
unsafe). -/
opaque Config.deviceOpens : Nat → Bool

/-- OPEN PARAMETER `RESAMPLER` (R96, I9; log entry 9, DESIGN CHOICE, safe): one pushed frame. From the
input rate, the output rate, the history and the frame, the new history and the output frames in time
order. -/
opaque Config.resamplerPush : Nat → Nat → Nat → Frame → Nat × List Frame

/-- OPEN PARAMETER `RESAMPLER`: the history after `RsConfigure`, from the old rates, the old history
and the new rates (R96; log entry 9, DESIGN CHOICE, safe). -/
opaque Config.resamplerConfigure : Nat → Nat → Nat → Nat → Nat → Nat

/-- OPEN PARAMETER `RESAMPLER`: the history a reset leaves, from the old rates, the old history and the
new rates, before R364 is imposed on it (R70, R360; log entry 9, DESIGN CHOICE, safe). -/
opaque Config.resamplerReset : Nat → Nat → Nat → Nat → Nat → Nat

/-- The nearest a function comes to doing nothing more the second time: what it gives, where that is
one of its fixed points, and otherwise what it was given. Every function with `f (f n) = f n` is its
own `settled`. -/
def Config.settled (f : Nat → Nat) (n : Nat) : Nat := if f (f n) = f n then f n else n

/-- The history "as `RESAMPLER` resets it" (R70), from the old rates and history and the new rates: any
function of them for which a second reset changes nothing (R364; log entry 9, DEDUCED, safe). -/
def Config.historyAtReset (inRate outRate history newIn newOut : Nat) : Nat :=
  Config.settled (fun h => Config.resamplerReset newIn newOut h newIn newOut)
    (if inRate = newIn ∧ outRate = newOut then history
     else Config.resamplerReset inRate outRate history newIn newOut)

/-- FREE VALUE: the resampler's input rate before the first reset (R71; log entry 9, DESIGN CHOICE,
safe). -/
opaque Config.firstInRate : Nat

/-- FREE VALUE: the resampler's output rate before the first reset (R71; log entry 9, DESIGN CHOICE,
safe). -/
opaque Config.firstOutRate : Nat

/-- FREE VALUE: the resampler's history before the first reset (R71; log entry 9, DESIGN CHOICE,
safe). -/
opaque Config.firstHistory : Nat

end Sys2Proof
end

