-- ==== Sys2Proof/Machine/State.lean ====
section
/-! DEFINITION. Everything the spec gives the block, as plain data: the noise channel `N`, the
Sequencer `S`, the Audio Unit `A`, the scheduler `E`, the ring buffer, the resampler, the
running pull, the direct-sound FIFOs as their contract shows them, the listed program, the outputs and the named
parameters (spec 10_state.md); the block's state right after reset (R70). -/

namespace Sys2Proof.Machine

/-- The block has no fault: no behaviour of it stops the machine (R334, R332; the last line of list I
of 93_implementation_defined.md). Nobody raises one. -/
inductive Fault where
  deriving DecidableEq, Repr

/-- The refusals of R333: a step for which the model has no meaning. A refused step changes no state
and ends the run (R355), so `Host.Outcome.refused` is R333's mark. Refusing is safe. -/
inductive Refusal where
  /-- An instruction that has no meaning yet. Raised by no arm of `exec`. Safe. -/
  | notModelled (mnemonic : String)
  /-- Port 0x6, 0x7, 0xD, 0xE or 0xF (R122). Raised when a listed word is issued. Safe. -/
  | reservedPort
  /-- A nonzero bit in a must-be-zero field (R122). Raised when a listed word is issued. Safe. -/
  | reservedBits
  /-- A listed word with port 0x8, 0x9 or 0xA, or with 0xB or 0xC under `FS512` (R123). Raised when a
  listed word is issued. Safe. -/
  | internalEvent
  /-- `RbRead` of an empty ring buffer or `RbPeek` past its end (R95). Raised by the two ring-buffer
  operations, wherever HOST makes one: in its own step, between a Tick's `RbWrite`s, and where a pull
  ends before `HOST_PULL` or `RESET`. No rule of the block makes such a call. Safe. -/
  | ringContract
  /-- A pull whose byte length is not a multiple of 4 (R311). Raised by `HOST_PULL`. Safe. -/
  | hostBufferLength
  /-- A program pair `(t, w)` with `t` below `E.now` (R345). Raised by the step. Safe. -/
  | programOrder
  /-- A pull while no host device is open (R319, R356). Raised by `HOST_PULL`. Safe. -/
  | noDevice
  /-- No event of the kind to fire is pending, which holds only before the first reset (R71, R334;
  log entry 14, DESIGN CHOICE, safe). Raised by the three events and by the step. Safe. -/
  | eventNotPending
  deriving DecidableEq, Repr

/-- The noise channel's state `N` (R31 to R38). -/
structure Noise where
  /-- `N.lfsr`, R31. -/
  lfsr : BitVec 15
  /-- `N.width`, R32: 0 is 15-bit mode, 1 is 7-bit mode. -/
  width : BitVec 1
  /-- `N.ratio`, R33. -/
  ratio : BitVec 3
  /-- `N.shift`, R33. -/
  shift : BitVec 4
  /-- `N.dac_enable`, R34. -/
  dacEnable : Bool
  /-- `N.enabled`, R35: the channel status, an output (R64). -/
  enabled : Bool
  /-- `N.length_enable`, R36. -/
  lengthEnable : Bool
  /-- `N.sample`, R37. -/
  sample : Int
  /-- `N.skip_count`, R38. -/
  skipCount : Nat
  deriving DecidableEq, Repr

/-- The envelope record `S.env` (R41). -/
structure Envelope where
  initialVolume : BitVec 4
  /-- 0 is decrement, 1 is increment. -/
  direction : BitVec 1
  divider : BitVec 3
  currentVolume : BitVec 4
  active : Bool
  timer : BitVec 3
  deriving DecidableEq, Repr

/-- The Sequencer's state `S` (R40, R41, R43). -/
structure Sequencer where
  /-- `S.length`, 0 to 64 (R40). -/
  length : Nat
  env : Envelope
  /-- `S.fs_step`, R43: part of the state under `FS512`. -/
  fsStep : BitVec 3
  deriving DecidableEq, Repr

/-- The Audio Unit's state `A` (R45 to R48). -/
structure Audio where
  /-- `A.fifo_latch`, R45: two bytes read as signed. -/
  latch : PerFifo Byte
  /-- `A.bias.resolution`, R46. -/
  resolution : BitVec 2
  /-- `A.bias.level`, R46: read by no rule (R287). -/
  level : BitVec 10
  /-- `A.resolution_old`, R47. -/
  resolutionOld : BitVec 2
  /-- `A.device_ok`, R48. -/
  deviceOk : Bool
  deriving DecidableEq, Repr

/-- The kinds of pending event (R55). -/
inductive EventKind where
  | generate
  | tick
  | seq
  deriving DecidableEq, Repr

/-- A pending event (R55). -/
structure Event where
  kind : EventKind
  deadline : Nat
  reg : Nat
  deriving DecidableEq, Repr

/-- The scheduler's state `E` (R55). -/
structure Scheduler where
  /-- `E.now`, the current emulated cycle. -/
  now : Nat
  /-- `E.pending`, held in the order of registration (log entry 18, DESIGN CHOICE, safe). -/
  pending : List Event
  /-- `E.next_reg`. -/
  nextReg : Nat
  deriving DecidableEq, Repr

/-- The resampler's state `RS` (R59, R96): the configured pair, and whatever history the open parameter
`RESAMPLER` keeps (log entry 9, DESIGN CHOICE, safe). -/
structure Resampler where
  inRate : Nat
  outRate : Nat
  history : Nat
  deriving DecidableEq, Repr

/-- Which of its two loops a running pull is in (R310). -/
inductive PullPath where
  /-- The normal path: `RbRead` (R312). -/
  | reading
  /-- The underrun path: `RbPeek` (R313). -/
  | peeking
  deriving DecidableEq, Repr

/-- A pull callback that has taken its snapshot and has not ended (R310, R352). -/
structure Pull where
  path : PullPath
  /-- The frames it still makes after the next one. -/
  more : Nat
  /-- `avail`, its one `RbAvailable()` snapshot (R318). -/
  avail : Nat
  /-- `y`, the index of its next `RbPeek` (R313). -/
  index : Nat
  /-- The frames it has made, `out[0]` first. -/
  made : List Frame
  deriving DecidableEq, Repr

/-- Who moves next where more than one can (R259, R350, R351; log entries 12 and 29, DESIGN CHOICE,
safe). -/
inductive Turn where
  /-- The block's own emulation context: SCHED, or the agent of the first listed pair. -/
  | emulation
  /-- The host context. -/
  | host
  /-- The external frame sequencer, which exists under `EXTERNAL` alone. -/
  | frameSequencer
  deriving DecidableEq, Repr

/-- The parameter `TIE_ORDER` (R344). -/
inductive TieOrder where
  /-- `OPEN`: every order is admitted. -/
  | anyOrder
  /-- `REG_FIFO`: the smaller registration number fires first. -/
  | regFifo
  deriving DecidableEq, Repr

/-- The parameter `CPU_SYNC` (R345). -/
inductive CpuSync where
  /-- `OPEN`: both orders are admitted. -/
  | eitherOrder
  /-- `EVENTS_FIRST`. -/
  | eventsFirst
  deriving DecidableEq, Repr

/-- How late events fire (R343). -/
inductive Lateness where
  /-- Every lateness is admitted. -/
  | anyLateness
  /-- A punctual run. -/
  | punctual
  deriving DecidableEq, Repr

/-- The parameter `SEQ_SCHEDULE` (R259). -/
inductive SeqSchedule where
  /-- `FS512`, the default: a `SEQ` event every 32768 cycles. -/
  | fs512
  /-- `EXTERNAL`: clocks arrive as transactions 0xB and 0xC. -/
  | external
  deriving DecidableEq, Repr

/-- The parameter `RESAMPLER` (R96). -/
inductive ResamplerKind where
  /-- `OPEN`: any total deterministic state machine. -/
  | anyKernel
  /-- `IDENTITY`: exactly the pushed frame, defined when the two rates are equal. -/
  | identity
  deriving DecidableEq, Repr

/-- What the DMA subsystem puts into the direct-sound FIFOs (R89, R335; log entry 5, DESIGN CHOICE,
unsafe). -/
inductive DmaArrivals where
  /-- Any bytes. -/
  | anyBytes
  /-- None: the FIFOs hold what the state says. -/
  | noBytes
  deriving DecidableEq, Repr

/-- Which pulls the HOST agent starts (R345, R351; log entry 27, DESIGN CHOICE, safe). -/
inductive HostPulls where
  /-- Any number of any length at any point, beside those that a program lists. -/
  | anyPulls
  /-- Those that a program lists, and no other. -/
  | listedOnly
  deriving DecidableEq, Repr

/-- Which clocks the external frame sequencer issues (R259; log entry 29, DESIGN CHOICE, safe). -/
inductive ExternalClocks where
  /-- Any number of either kind at any cycles, beside those that a program lists. -/
  | anyClocks
  /-- Those that a program lists, and no other. -/
  | listedOnly
  deriving DecidableEq, Repr

/-- The named parameters that a model "takes as an argument" (R8), and the premises under which
95_test_vectors.md gives its vectors. No step changes one (log entry 10, DESIGN CHOICE, safe). -/
structure Params where
  tieOrder : TieOrder
  cpuSync : CpuSync
  lateness : Lateness
  seqSchedule : SeqSchedule
  resampler : ResamplerKind
  /-- `HOST_RATE`. -/
  hostRate : Nat
  /-- `RING_CAPACITY`. -/
  ringCapacity : Nat
  /-- The result of every `Open`, or `none` where each is a draw (R331). -/
  openResult : Option Bool
  /-- The square channels' samples at every Tick, or `none` where each is any value (R283). -/
  squares : Option (PerFifo Byte)
  dmaArrivals : DmaArrivals
  /-- Which pulls HOST starts (R351). -/
  hostPulls : HostPulls
  /-- Which clocks the external frame sequencer issues under `EXTERNAL` (R259). -/
  externalClocks : ExternalClocks
  deriving DecidableEq, Repr

/-- The status a reset returns (R331). -/
inductive ResetStatus where
  | ok
  | audioDeviceUnavailable
  deriving DecidableEq, Repr

/-- What the block gives out (R63), and the trace word of a firing (R123). -/
inductive Output where
  /-- The byte a register-window read returns to the BUS agent (R150). -/
  | readData (b : Byte)
  /-- One `DmaRequest` pulse (R276). -/
  | dmaRequest (i : FifoId)
  /-- The bytes one pull writes into the host's buffer, in order (R101). -/
  | hostBuffer (bytes : List Byte)
  /-- The status a reset returns to the BUS agent (R331). -/
  | resetStatus (st : ResetStatus)
  /-- The trace word of an internal event (R123). -/
  | trace (w : TxWord)
  deriving DecidableEq, Repr

/-- The state of the block, with its environment's listed inputs and the outputs it has given. -/
structure State where
  /-- `N`. -/
  noise : Noise
  /-- `S`. -/
  seq : Sequencer
  /-- `A`. -/
  audio : Audio
  /-- `E`. -/
  sched : Scheduler
  /-- `RB`, oldest frame first (R59, R90). -/
  rb : List Frame
  /-- `RS`. -/
  rs : Resampler
  /-- The running pull callback, where there is one (R352). -/
  pull : Option Pull
  /-- The bytes in the two direct-sound FIFOs, oldest first (R89). -/
  fifos : PerFifo (List Byte)
  /-- The program pairs `(t, w)` not yet issued, in order (R120, R345). -/
  program : List (Nat × TxWord)
  /-- Every output so far with the cycle it was given at, oldest first (log entry 15, DESIGN CHOICE,
  safe). -/
  out : List (Nat × Output)
  /-- The model's own counter of draws: the index of the next free value (log entry 11, DESIGN
  CHOICE, unsafe). -/
  draws : Nat
  /-- The model's own record of who moves next: the draw made for the next step (log entries 12 and 29,
  DESIGN CHOICE, safe). -/
  turn : Turn
  /-- The named parameters. -/
  params : Params
  deriving DecidableEq, Repr

/-- The draw of who moves (R259, R351; log entries 12 and 29, DESIGN CHOICE, safe). -/
def Turn.draw (n : Nat) : Turn :=
  if Config.hostTurn n then .host else if Config.clockTurn n then .frameSequencer else .emulation

/-- The defaults of the named parameters: every one open that the spec leaves open (R8). -/
def Params.default : Params where
  tieOrder := .anyOrder
  cpuSync := .eitherOrder
  lateness := .anyLateness
  seqSchedule := .fs512
  resampler := .anyKernel
  hostRate := Config.hostRate
  ringCapacity := Config.ringCapacity
  openResult := none
  squares := none
  dmaArrivals := .anyBytes
  hostPulls := .anyPulls
  externalClocks := .anyClocks

/-- The block right after a reset at cycle 0 whose `Open` succeeded, with nothing listed to do
(R70, R360; log entries 7 to 12, DESIGN CHOICE, of which 7 and 11 are unsafe). -/
def State.reset : State where
  noise :=
    { lfsr := 0, width := 0, ratio := 0, shift := 0, dacEnable := false, enabled := false,
      lengthEnable := false, sample := 0, skipCount := 0 }
  seq :=
    { length := 0,
      env :=
        { initialVolume := 0, direction := 0, divider := 0, currentVolume := 0, active := false,
          timer := 0 },
      fsStep := 0 }
  audio :=
    { latch := { zero := 0, one := 0 }, resolution := 0, level := 0x100, resolutionOld := 0,
      deviceOk := true }
  sched :=
    { now := 0,
      pending :=
        [{ kind := .tick, deadline := 512, reg := 0 },
         { kind := .generate, deadline := 14680064, reg := 1 },
         { kind := .seq, deadline := 32768, reg := 2 }],
      nextReg := 3 }
  rb := []
  rs :=
    { inRate := 32768, outRate := Config.hostRate,
      history :=
        Config.historyAtReset Config.firstInRate Config.firstOutRate Config.firstHistory 32768
          Config.hostRate }
  pull := none
  fifos := { zero := [], one := [] }
  program := []
  out := []
  draws := 1
  turn := Turn.draw 0
  params := Params.default

end Sys2Proof.Machine
end

