-- ==== Sys2Proof/Machine/Ops.lean ====
section
/-! DEFINITION. The named operations: the block's constants, the LFSR, the scheduler's `Schedule` and
the firing of an event, the direct-sound FIFO, ring-buffer, resampler and host-device contracts, and
the outputs. The block takes no exception and returns from none (R330), so no operation here saves a
state or changes a mode; the one condition it reports is the status of `RESET` (R331). -/

namespace Sys2Proof.Machine

open Sys2Proof

/-! ### Constants -/

/-- `NOISE_BASE`, cycles per ratio unit (R8, R210). -/
def noiseBase : Nat := 32

/-- `LFSR_MASK[width]` (R208). -/
def lfsrMask (width : BitVec 1) : BitVec 15 := if width = 0 then 0x6000 else 0x0060

/-- `LFSR_SEED[width]` (R175). -/
def lfsrSeed (width : BitVec 1) : BitVec 15 := if width = 0 then 0x4000 else 0x0040

/-- `interval(r, s)`, the synthesis interval in cycles (R210). -/
def interval (r : BitVec 3) (s : BitVec 4) : Nat :=
  (if r = 0 then noiseBase / 2 else r.toNat * noiseBase) <<< (s.toNat + 1)

/-- `BASE_INTERVAL` (R14, R202). -/
def baseInterval : Nat := interval 7 15

/-- `MIXER_INTERVAL` in cycles for a bias resolution (R212, R291). -/
def mixerInterval (resolution : BitVec 2) : Nat := 512 >>> resolution.toNat

/-- The internal generation rate, the resampler's input rate (R281, R290). -/
def generationRate (resolution : BitVec 2) : Nat := 32768 <<< resolution.toNat

/-- The period of the `SEQ` event (R258). -/
def seqPeriod : Nat := 32768

/-- The FIFO low-water mark (R276). -/
def lowWaterMark : Nat := 16

/-- `FULL_SCALE` (R316). -/
def fullScale : Int := 32767

/-! ### The LFSR (R203, R206) -/

/-- One step of the shift register: the raw output and the new state (R203). -/
def lfsrStep (width : BitVec 1) (x : BitVec 15) : Int × BitVec 15 :=
  if x.getLsbD 0 then (8, (x >>> 1) ^^^ lfsrMask width) else (-8, x >>> 1)

/-- `n` steps whose outputs are discarded (R206). -/
def lfsrSkip (width : BitVec 1) : Nat → BitVec 15 → BitVec 15
  | 0, x => x
  | n + 1, x => lfsrSkip width n (lfsrStep width x).2

/-- The new skip count and the clamped interval (R213). -/
def skipAndPeriod (noiseInterval mixer : Nat) : Nat × Nat :=
  if noiseInterval < mixer then (mixer / noiseInterval - 1, mixer) else (0, noiseInterval)

/-! ### Outputs and draws -/

/-- Gives an output at the current cycle (R63). -/
def State.emit (s : State) (o : Output) : State := { s with out := s.out ++ [(s.sched.now, o)] }

/-- Advances the counter of draws (log entry 11, DESIGN CHOICE, unsafe). -/
def State.drawn (s : State) : State := { s with draws := s.draws + 1 }

/-- What every step does first: it moves the counter of draws on and draws who moves after it (log
entries 11, unsafe, and 12 and 29, safe, DESIGN CHOICE). -/
def State.advance (s : State) : State :=
  { s with
    draws := s.draws + 1
    turn := Turn.draw s.draws }

/-! ### The scheduler (R340 to R343) -/

/-- `Schedule(kind, delay)`, called at the firing cycle `E.now` (R340). -/
def State.schedule (s : State) (kind : EventKind) (delay : Int) : State :=
  { s with
    sched :=
      { s.sched with
        pending := s.sched.pending ++
          [{ kind := kind, deadline := ((s.sched.now : Int) + delay).toNat, reg := s.sched.nextReg }]
        nextReg := s.sched.nextReg + 1 } }

/-- `CancelBlockEvents()`: removes every pending event, since each is a `GENERATE`, a `TICK` or a
`SEQ` (R361). -/
def State.cancelEvents (s : State) : State := { s with sched := { s.sched with pending := [] } }

/-- Whether an event comes before another: by deadline, and among equals by registration (R342,
R344). -/
def Event.before (a b : Event) : Bool :=
  decide (a.deadline < b.deadline) || (decide (a.deadline = b.deadline) && decide (a.reg < b.reg))

/-- The first of a list of events under `Event.before`. -/
def earliest : List Event → Option Event
  | [] => none
  | e :: es =>
    match earliest es with
    | none => some e
    | some m => if m.before e then some m else some e

/-- The pending events of a kind. -/
def State.eventsOf (s : State) (kind : EventKind) : List Event :=
  s.sched.pending.filter (fun e => decide (e.kind = kind))

/-- The draw of the firing cycle `f` of an event with deadline `d`: at least `max(E.now, d)`, and at
most the cycle of the next listed transaction where there is one (R343, R345; log entry 3, DESIGN
CHOICE, safe). -/
def State.firingCycle (s : State) (d : Nat) : Nat :=
  match s.params.lateness with
  | .punctual => max s.sched.now d
  | .anyLateness =>
    match s.program with
    | [] => max s.sched.now d + Config.lateness s.draws
    | (t, _) :: _ =>
      max s.sched.now d + min (Config.lateness s.draws) (t - max s.sched.now d)

/-- The trace word of an event's firing (R120, R123). -/
def EventKind.traceWord : EventKind → TxWord
  | .generate => 0x8000
  | .tick => 0x9000
  | .seq => 0xA000

/-- What firing an event does before its rule runs: `E.now` becomes the firing cycle, the entry leaves
`E.pending`, and the trace records the firing (R123, R341, R343). -/
def State.beginFiring (s : State) (e : Event) : State :=
  { s with
    sched :=
      { s.sched with
        now := s.firingCycle e.deadline
        pending := s.sched.pending.erase e }
    out := s.out ++ [(s.firingCycle e.deadline, .trace e.kind.traceWord)]
    draws := s.draws + 1 }

/-- What a computation that may refuse answers as a step. -/
def answer : Except Refusal State → Host.Outcome State Fault Refusal
  | .error r => .refused r
  | .ok t => .next t

/-- Fires the pending event of a kind: its rule `body`, which may be refused, runs with `cycles_late`
(R341, R343). -/
def fireOrRefuse (kind : EventKind) (body : Nat → State → Except Refusal State) (s : State) :
    Host.Outcome State Fault Refusal :=
  match earliest (s.eventsOf kind) with
  | none => .refused .eventNotPending
  | some e => answer (body (s.firingCycle e.deadline - e.deadline) (s.beginFiring e))

/-- Fires the pending event of a kind whose rule is never refused. -/
def fire (kind : EventKind) (body : Nat → State → State) : State → Host.Outcome State Fault Refusal :=
  fireOrRefuse kind fun late s => .ok (body late s)

/-! ### The direct-sound FIFOs (R89) -/

/-- `FifoCount(id)`. -/
def State.fifoCount (s : State) (i : FifoId) : Nat := (s.fifos.get i).length

/-- The bytes that the DMA subsystem has put into FIFO `i` since it was last looked at (log entry 5,
DESIGN CHOICE, unsafe). -/
def State.arrivals (s : State) (i : FifoId) : List Byte :=
  match s.params.dmaArrivals with
  | .noBytes => []
  | .anyBytes => Config.dmaArrivals i s.draws

/-- Takes the arrivals of FIFO `i` into its contents. -/
def State.takeArrivals (s : State) (i : FifoId) : State :=
  { s with fifos := s.fifos.set i (s.fifos.get i ++ s.arrivals i), draws := s.draws + 1 }

/-- `A.fifo_latch[id] <- FifoRead(id)`: removes the oldest byte and latches it; where the FIFO is
empty, latches a free value (R89, R275; log entry 4, DESIGN CHOICE, safe). -/
def State.latchOldest (s : State) (i : FifoId) : State :=
  match s.fifos.get i with
  | b :: rest =>
    { s with
      audio := { s.audio with latch := s.audio.latch.set i b }
      fifos := s.fifos.set i rest }
  | [] =>
    { s with
      audio := { s.audio with latch := s.audio.latch.set i (Config.emptyFifoByte s.draws) }
      draws := s.draws + 1 }

/-- One drain: the latch, then a refill request where the FIFO is at or below the mark (R275, R276). -/
def State.drainOne (s : State) (i : FifoId) : State :=
  if (s.latchOldest i).fifoCount i ≤ lowWaterMark then (s.latchOldest i).emit (.dmaRequest i)
  else s.latchOldest i

/-- `t` drains (R275). -/
def drain (i : FifoId) : Nat → State → State
  | 0, s => s
  | t + 1, s => drain i t (s.drainOne i)

/-! ### The ring buffer (R90 to R95) -/

/-- `RbWrite(f)`: a full buffer discards the frame (R91). -/
def rbWrite (capacity : Nat) (rb : List Frame) (f : Frame) : List Frame :=
  if rb.length < capacity then rb ++ [f] else rb

/-- `RbRead()`: the oldest frame and the rest; refused on an empty buffer (R93, R95). -/
def rbRead : List Frame → Except Refusal (Frame × List Frame)
  | [] => .error .ringContract
  | f :: rest => .ok (f, rest)

/-- `RbPeek(i)`: refused past the end (R94, R95). -/
def rbPeek (rb : List Frame) (i : Nat) : Except Refusal Frame :=
  match rb[i]? with
  | none => .error .ringContract
  | some f => .ok f

/-! ### The resampler (R96) -/

/-- `RsConfigure(in_rate, out_rate)` (R96). -/
def Resampler.configure (rs : Resampler) (inRate outRate : Nat) : Resampler where
  inRate := inRate
  outRate := outRate
  history := Config.resamplerConfigure rs.inRate rs.outRate rs.history inRate outRate

/-- The resampler as a reset configures it (R70, R360). -/
def Resampler.atReset (rs : Resampler) (inRate outRate : Nat) : Resampler where
  inRate := inRate
  outRate := outRate
  history := Config.historyAtReset rs.inRate rs.outRate rs.history inRate outRate

/-- The new resampler state and the output frames of `RsPush(f)`. The pair of rates is the configured one
(R59, R290) and stays; the history is the open kernel's to choose, under `IDENTITY` too (log entry 9,
DESIGN CHOICE, safe). `IDENTITY` gives exactly `[f]`, and is defined only where the two rates are equal;
elsewhere, and by default, the output is any function (R96; log entry 9, DESIGN CHOICE, safe). -/
def Resampler.push (kind : ResamplerKind) (rs : Resampler) (f : Frame) : Resampler × List Frame :=
  let r := Config.resamplerPush rs.inRate rs.outRate rs.history f
  ({ rs with history := r.1 }, if kind = .identity ∧ rs.inRate = rs.outRate then [f] else r.2)

/-! ### The square channels and the host device (R60, R283, R331) -/

/-- `Q[k]`, the sample square channel `k` presents now, a signed byte (R283; log entry 6, DESIGN
CHOICE, safe). -/
def State.squareSample (s : State) (k : FifoId) : Int :=
  match s.params.squares with
  | some q => (q.get k).toInt
  | none => (Config.squareSample k s.draws).toInt

/-- The result of `Open(owner, callback)` (R331; log entry 7, DESIGN CHOICE, unsafe). -/
def State.openSucceeds (s : State) : Bool :=
  match s.params.openResult with
  | some b => b
  | none => Config.deviceOpens s.draws

/-! ### Conversion to host samples (R101, R316) -/

/-- Rounds `n / d` to the nearest integer, halves away from zero (R316). -/
def roundHalfAway (n : Int) (d : Nat) : Int :=
  if 0 ≤ n then (2 * n + d) / (2 * d) else -((2 * (-n) + d) / (2 * d))

/-- `Conv(v)` (R316). -/
def conv (v : Rat) : Int := max (-32768) (min 32767 (roundHalfAway (v.num * fullScale) v.den))

/-- The two bytes of a sample, least significant first (R101). -/
def sampleBytes (x : Int) : List Byte :=
  [(BitVec.ofInt 16 x).extractLsb' 0 8, (BitVec.ofInt 16 x).extractLsb' 8 8]

/-- The four bytes of an output frame: left, then right (R101, R317). -/
def frameBytes (f : Frame) : List Byte := sampleBytes (conv f.left) ++ sampleBytes (conv f.right)

end Sys2Proof.Machine
end

