-- ==== Sys2Proof/Machine/Operands.lean ====
section
/-! DEFINITION. The register byte layouts: the fields a write decodes and the bytes a read returns
(spec 30_encoding.md R110 to R115; 40_noise_registers.md R150 to R158). -/

namespace Sys2Proof.Machine

open Sys2Proof

/-- The length counter an offset-0 write loads: `64 - d[5:0]` (R110, R160). -/
def lengthLoad (d : Byte) : Nat := 64 - (d.extractLsb' 0 6).toNat

/-- `d[2:0]` of an offset-1 write (R162). -/
def dividerField (d : Byte) : BitVec 3 := d.extractLsb' 0 3

/-- `d[3]` of an offset-1 write (R162). -/
def directionField (d : Byte) : BitVec 1 := d.extractLsb' 3 1

/-- `d[7:4]` of an offset-1 write (R162). -/
def volumeField (d : Byte) : BitVec 4 := d.extractLsb' 4 4

/-- `d[2:0]` of an offset-4 write (R113). -/
def ratioField (d : Byte) : BitVec 3 := d.extractLsb' 0 3

/-- `d[3]` of an offset-4 write (R113). -/
def widthField (d : Byte) : BitVec 1 := d.extractLsb' 3 1

/-- `d[7:4]` of an offset-4 write (R113). -/
def shiftField (d : Byte) : BitVec 4 := d.extractLsb' 4 4

/-- `d[6]` of an offset-5 write (R171). -/
def lengthEnableBit (d : Byte) : Bool := d.getLsbD 6

/-- `d[7]` of an offset-5 write (R172). -/
def triggerBit (d : Byte) : Bool := d.getLsbD 7

/-- The byte offset 1 reads as (R111, R152). -/
def envelopeByte (e : Envelope) : Byte :=
  e.divider.setWidth 8 ||| (e.direction.setWidth 8 <<< 3) ||| (e.initialVolume.setWidth 8 <<< 4)

/-- The byte offset 4 reads as (R113, R155). -/
def frequencyByte (n : Noise) : Byte :=
  n.ratio.setWidth 8 ||| (n.width.setWidth 8 <<< 3) ||| (n.shift.setWidth 8 <<< 4)

/-- The byte offset 5 reads as (R114, R156). -/
def controlByte (n : Noise) : Byte := if n.lengthEnable then 0x40 else 0x00

/-- `RegRead(o)`: the byte the register window holds at an offset (R150 to R158, R81). -/
def State.window (s : State) (o : BitVec 3) : Byte :=
  if o = 1 then envelopeByte s.seq.env
  else if o = 4 then frequencyByte s.noise
  else if o = 5 then controlByte s.noise
  else 0x00

/-- A register-window read: the byte goes to the BUS agent and no state changes (R86, R150). -/
def State.readWindow (s : State) (o : BitVec 3) : State := s.emit (.readData (s.window o))

end Sys2Proof.Machine
end

