-- ==== Sys2Proof/Machine/Flags.lean ====
section
/-! DEFINITION. The status flags `N.dac_enable`, `N.enabled`, `N.length_enable` and `S.env.active`
(R68), and the volume corrections that read them: when each is set, cleared and tested. -/

namespace Sys2Proof.Machine

open Sys2Proof

/-- `N.dac_enable` after an offset-1 write: `(d >> 3) != 0` (R163). -/
def dacFlag (d : Byte) : Bool := decide (d >>> 3 ≠ 0)

/-- `N.enabled` after an offset-1 write: cleared where the DAC becomes disabled (R161, R163). -/
def enabledAfterEnvelope (n : Noise) (d : Byte) : Bool := n.enabled && dacFlag d

/-- `N.enabled` after a trigger: set only where the DAC is on (R172). -/
def enabledAfterTrigger (n : Noise) : Bool := n.enabled || n.dacEnable

/-- The length gate's test at a `GENERATE` (R201). -/
def lengthExpired (n : Noise) (q : Sequencer) : Bool := n.lengthEnable && decide (q.length = 0)

/-- `Zombie`: the volume after an offset-1 write, from the envelope before it and the new direction,
the three adjustments in their order (R164, R165, R166). -/
def zombieVolume (old : Envelope) (newDirection : BitVec 1) : BitVec 4 :=
  let vol : Int := old.currentVolume.toNat
  let vol : Int :=
    if old.divider = 0 ∧ old.active = true then vol + 1
    else if old.direction = 0 then vol + 2
    else vol
  let vol : Int := if old.direction ≠ newDirection then 16 - vol else vol
  BitVec.ofInt 4 vol

/-- The volume step of an envelope clock, which clears `S.env.active` at the end of the range
(R255). -/
def stepVolume (e : Envelope) : Envelope :=
  if e.direction = 1 then
    if e.currentVolume.toNat < 15 then { e with currentVolume := e.currentVolume + 1 }
    else { e with active := false }
  else
    if 0 < e.currentVolume.toNat then { e with currentVolume := e.currentVolume - 1 }
    else { e with active := false }

/-- The envelope's timer after its countdown, before any reload (R255). -/
def countDown (timer : BitVec 3) : BitVec 3 := if 0 < timer.toNat then timer - 1 else timer

/-- One envelope clock on the envelope record (R255). -/
def clockEnvelope (e : Envelope) : Envelope :=
  if e.active = true ∧ e.divider ≠ 0 then
    if countDown e.timer = 0 then stepVolume { e with timer := e.divider }
    else { e with timer := countDown e.timer }
  else e

/-- One length clock on the length counter (R250). -/
def clockLength (n : Noise) (q : Sequencer) : Nat :=
  if n.lengthEnable = true ∧ 0 < q.length then q.length - 1 else q.length

/-- `LengthClock()`, the body of R250. -/
def State.lengthClock (s : State) : State :=
  { s with seq := { s.seq with length := clockLength s.noise s.seq } }

/-- `EnvelopeClock()`, the body of R255. -/
def State.envelopeClock (s : State) : State :=
  { s with seq := { s.seq with env := clockEnvelope s.seq.env } }

/-- `Restart()` (R245), which sets `S.env.active`. -/
def State.restart (s : State) : State :=
  { s with
    seq :=
      { s.seq with
        length := if s.seq.length = 0 then 64 else s.seq.length
        env :=
          { s.seq.env with
            timer := s.seq.env.divider
            currentVolume := s.seq.env.initialVolume
            active := true } } }

end Sys2Proof.Machine
end

