-- ==== Sys2Proof/Machine/HostAgent.lean ====
section
/-! DEFINITION. The HOST agent: a pull callback as the atomic ring-buffer steps it is made of (spec
44_host_pull.md R310 to R318; 60_exceptions.md R351, R352), and the points at which its steps run
between the `RbWrite`s of the emulation context. -/

namespace Sys2Proof.Machine

open Sys2Proof

/-- The index after `y` in the underrun path (R313). -/
def nextPeek (avail y : Nat) : Nat := if y + 1 ≥ avail then 0 else y + 1

/-- The output frame of a pull that finds nothing to repeat (R314). -/
def silence : Frame where
  left := 0
  right := 0

/-- `HostBufferWrite(out)`: the frames converted, in order (R101, R317). -/
def State.writeHostBuffer (s : State) (frames : List Frame) : State :=
  s.emit (.hostBuffer (frames.flatMap frameBytes))

/-- The start of a pull of `frames` frames: the one `RbAvailable()` snapshot, which selects the path,
and the whole pull where no ring-buffer operation follows it (R310, R312 to R314, R318). -/
def State.beginPull (s : State) (frames : Nat) : State :=
  match frames with
  | 0 => s.writeHostBuffer []
  | more + 1 =>
    if 2 * (more + 1) ≤ s.rb.length then
      { s with
        pull := some { path := .reading, more := more, avail := s.rb.length, index := 0, made := [] } }
    else if s.rb.length = 0 then s.writeHostBuffer (List.replicate (more + 1) silence)
    else
      { s with
        pull := some { path := .peeking, more := more, avail := s.rb.length, index := 0, made := [] } }

/-- The one ring-buffer operation that makes a pull's next frame: the frame, and the ring buffer after
it (R312, R313). -/
def Pull.take (p : Pull) (rb : List Frame) : Except Refusal (Frame × List Frame) :=
  match p.path with
  | .reading => rbRead rb
  | .peeking =>
    match rbPeek rb p.index with
    | .error r => .error r
    | .ok f => .ok (f, rb)

/-- Whether a running pull's calls meet the ring buffer's requirements to its end (R93, R94, R312, R313):
enough frames queued to read, or every index it can reach within the buffer. -/
abbrev Pull.inContract (p : Pull) (rb : List Frame) : Prop :=
  (p.path = .reading → p.more < rb.length) ∧
    (p.path = .peeking → p.index < p.avail ∧ p.avail ≤ rb.length)

/-- Whether a pull, where one is running, is within the ring buffer's contract (R95). -/
abbrev State.pullInContract (s : State) : Prop := ∀ p ∈ s.pull, p.inContract s.rb

/-- The pull after it has made frame `f`, where another follows. -/
def Pull.next (p : Pull) (more : Nat) (f : Frame) : Pull :=
  { p with more := more, index := nextPeek p.avail p.index, made := p.made ++ [f] }

/-- A running pull makes its next frame; after the last one it writes the host's buffer and ends
(R310). -/
def State.pullStep (s : State) (p : Pull) : Except Refusal State :=
  match p.take s.rb with
  | .error r => .error r
  | .ok (f, rb) =>
    match p.more with
    | 0 => .ok (({ s with rb := rb, pull := none }).writeHostBuffer (p.made ++ [f]))
    | more + 1 => .ok { s with rb := rb, pull := some (p.next more f) }

/-- Up to `k` steps of the running pull, with nothing between them. -/
def runPull : Nat → State → Except Refusal State
  | 0, s => .ok s
  | k + 1, s =>
    match s.pull with
    | none => .ok s
    | some p =>
      match s.pullStep p with
      | .error r => .error r
      | .ok t => runPull k t

/-- The running callback runs to its end: before HOST's next pull, and where a reset's `Close()` waits
for it (R319, R356). A call outside the ring buffer's contract is refused (R95). -/
def State.finishPull (s : State) : Except Refusal State :=
  match s.pull with
  | none => .ok s
  | some p => runPull (p.more + 1) s

/-- Whether HOST has a step: the device is open, and a pull is running or may be started (R319, R351). -/
def State.hostEnabled (s : State) : Bool :=
  s.audio.deviceOk && (s.pull.isSome || decide (s.params.hostPulls = .anyPulls))

/-- Whether the next step is HOST's. -/
def State.hostMoves (s : State) : Bool := decide (s.turn = .host) && s.hostEnabled

/-- One step of HOST: the running pull makes a frame, or a pull of a drawn number of frames starts, its
byte length a multiple of 4 as R356 asks of the host (R351, R352; log entry 27, DESIGN CHOICE, safe). -/
def State.hostStep (s : State) : Except Refusal State :=
  match s.pull with
  | some p => s.pullStep p
  | none => .ok (s.drawn.beginPull (Config.hostFrames s.draws))

/-- Up to `k` steps of HOST; a call outside the ring buffer's contract is refused (R95). -/
def hostRun : Nat → State → Except Refusal State
  | 0, s => .ok s
  | k + 1, s =>
    if s.hostEnabled then
      match s.hostStep with
      | .error r => .error r
      | .ok t => hostRun k t
    else .ok s

/-- A drawn number of HOST's steps (R351, R352; log entry 12, DESIGN CHOICE, safe). -/
def State.hostInterlude (s : State) : Except Refusal State :=
  if s.hostEnabled then hostRun (Config.hostSteps s.draws) s.drawn else .ok s

/-- `RbWrite(f)` (R91). -/
def State.writeFrame (s : State) (f : Frame) : State :=
  { s with rb := rbWrite s.params.ringCapacity s.rb f }

/-- The `RbWrite`s of one `RsPush`, in order, with HOST's steps between them (R96, R351, R352). A refused
step of HOST's refuses the whole (R95; log entry 28, DESIGN CHOICE, safe). -/
def produce : List Frame → State → Except Refusal State
  | [], s => .ok s
  | f :: fs, s =>
    match s.hostInterlude with
    | .error r => .error r
    | .ok t => produce fs (t.writeFrame f)

/-- What a computation gives where it is known to succeed: it is looked into only where it is not. -/
def known (succeeds : Bool) (s : State) (r : Except Refusal State) : Except Refusal State :=
  if succeeds then
    .ok (match r with
      | .ok t => t
      | .error _ => s)
  else r

/-- `RsPush(f)`: the resampler moves on and every output frame is written into the ring buffer
(R96, R286). It is `produce`, which succeeds where the running pull is within the ring buffer's contract
(`pushFrame_eq`), so that there a Tick answers a next state whatever the draws are. -/
def State.pushFrame (s : State) (f : Frame) : Except Refusal State :=
  known s.pullInContract s
    (produce (s.rs.push s.params.resampler f).2
      { s with rs := (s.rs.push s.params.resampler f).1 })

end Sys2Proof.Machine
end

