-- ==== Sys2Proof/Machine/Audio.lean ====
section
/-! DEFINITION. The Audio Unit: `BIAS_WR`, `LATCH_FIFO` and `EV_TICK` (spec 43_audio_unit.md). -/

namespace Sys2Proof.Machine

open Sys2Proof

/-- The bias write (R271). -/
def execBiasWr (l : BitVec 10) (r : BitVec 2) (s : State) : Host.Outcome State Fault Refusal :=
  .next { s with audio := { s.audio with resolution := r, level := l } }

/-- The drain of a direct-sound FIFO into its latch (R275). -/
def execLatchFifo (i : FifoId) (t : Nat) (s : State) : Host.Outcome State Fault Refusal :=
  .next (drain i t (s.takeArrivals i))

/-- Step 1 of a Tick: the resampler is reconfigured where the resolution changed since the last one
(R281, R282). -/
def State.retune (s : State) : State :=
  if s.audio.resolution ≠ s.audio.resolutionOld then
    { s with
      rs := s.rs.configure (generationRate s.audio.resolution) s.params.hostRate
      audio := { s.audio with resolutionOld := s.audio.resolution } }
  else s

/-- The sum of the three programmable channels (R283). -/
def State.psg (s : State) : Int :=
  s.squareSample .fifo0 + s.squareSample .fifo1 + s.noise.sample

/-- One side of the mix: `latch / 256 + psg / 512`, as the exact multiple of 1/512 it is (R280,
R285). -/
def mixSide (latch : Byte) (psg : Int) : Rat := mkRat (2 * latch.toInt + psg) 512

/-- Step 2 of a Tick: the frame (R284). -/
def State.mix (s : State) : Frame where
  left := mixSide (s.audio.latch.get .fifo0) s.psg
  right := mixSide (s.audio.latch.get .fifo1) s.psg

/-- The Tick's four steps (R280). -/
def tickBody (cyclesLate : Nat) (s : State) : Except Refusal State :=
  match s.retune.pushFrame s.mix with
  | .error r => .error r
  | .ok t => .ok (t.drawn.schedule .tick ((mixerInterval s.audio.resolution : Int) - cyclesLate))

/-- The mixing event (R280). -/
def execEvTick (s : State) : Host.Outcome State Fault Refusal := fireOrRefuse .tick tickBody s

end Sys2Proof.Machine
end

