-- ==== Sys2Proof/Machine/Generate.lean ====
section
/-! DEFINITION. `EV_GENERATE`: the noise synthesis event (spec 41_noise_generate.md R200). -/

namespace Sys2Proof.Machine

/-- Step 3: the raw output scaled by the volume, forced to 0 where the DAC is off (R204, R205). -/
def scaledSample (raw : Int) (s : State) : Int :=
  if s.noise.dacEnable then raw * s.seq.env.currentVolume.toNat else 0

/-- Step 5: the new skip count and the clamped interval, from the registers as they stand (R210 to
R213). -/
def nextTiming (s : State) : Nat × Nat :=
  skipAndPeriod (interval s.noise.ratio s.noise.shift) (mixerInterval s.audio.resolution)

/-- Step 1 where the length has expired: the channel is muted and re-armed at `BASE_INTERVAL`
(R201, R202). -/
def muteBody (cyclesLate : Nat) (s : State) : State :=
  ({ s with noise := { s.noise with enabled := false, sample := 0 } }).schedule .generate
    ((baseInterval : Int) - cyclesLate)

/-- Steps 2 to 6 (R203 to R216). -/
def synthesizeBody (cyclesLate : Nat) (s : State) : State :=
  let observed := lfsrStep s.noise.width s.noise.lfsr
  ({ s with
      noise :=
        { s.noise with
          lfsr := lfsrSkip s.noise.width s.noise.skipCount observed.2
          sample := scaledSample observed.1 s
          skipCount := (nextTiming s).1 } }).schedule .generate
    (((nextTiming s).2 : Int) - cyclesLate)

/-- The rule of `GENERATE` (R200). -/
def generateBody (cyclesLate : Nat) (s : State) : State :=
  if lengthExpired s.noise s.seq then muteBody cyclesLate s else synthesizeBody cyclesLate s

/-- The noise synthesis event (R200). -/
def execEvGenerate (s : State) : Host.Outcome State Fault Refusal := fire .generate generateBody s

end Sys2Proof.Machine
end

