-- ==== Sys2Proof/Machine/HostPull.lean ====
section
/-! DEFINITION. `HOST_PULL`: a listed host pull (spec 44_host_pull.md; 60_exceptions.md R345). -/

namespace Sys2Proof.Machine

open Sys2Proof

/-- The pull callback (R310), run "as if it were a transaction" (R345): a callback that HOST is still in
ends first, since HOST is one thread, and then this one runs whole (log entry 12, DEDUCED, safe). R319
and R356 refuse the closed device, R311 the length (log entry 13, DESIGN CHOICE, safe, for their
order). -/
def execHostPull (n : Nat) (s : State) : Host.Outcome State Fault Refusal :=
  if s.audio.deviceOk = false then .refused .noDevice
  else if n % 4 ≠ 0 then .refused .hostBufferLength
  else
    match s.finishPull with
    | .error r => .refused r
    | .ok u => answer (runPull (n / 4) (u.beginPull (n / 4)))

end Sys2Proof.Machine
end

