-- ==== Sys2Proof/Machine/NoiseRead.lean ====
section
/-! DEFINITION. `NOISE_RD0` to `NOISE_RD7`: the register-window reads (spec 40_noise_registers.md
R150 to R158). -/

namespace Sys2Proof.Machine

/-- Offset 0, length: reads 0x00 (R151). -/
def execNoiseRd0 (s : State) : Host.Outcome State Fault Refusal := .next (s.readWindow 0)

/-- Offset 1, envelope (R152). -/
def execNoiseRd1 (s : State) : Host.Outcome State Fault Refusal := .next (s.readWindow 1)

/-- Offset 2, unused: reads 0x00 (R153). -/
def execNoiseRd2 (s : State) : Host.Outcome State Fault Refusal := .next (s.readWindow 2)

/-- Offset 3, unused: reads 0x00 (R154). -/
def execNoiseRd3 (s : State) : Host.Outcome State Fault Refusal := .next (s.readWindow 3)

/-- Offset 4, frequency/control (R155). -/
def execNoiseRd4 (s : State) : Host.Outcome State Fault Refusal := .next (s.readWindow 4)

/-- Offset 5, length-enable/trigger (R156). -/
def execNoiseRd5 (s : State) : Host.Outcome State Fault Refusal := .next (s.readWindow 5)

/-- Offset 6, outside the window: reads 0x00 (R157). -/
def execNoiseRd6 (s : State) : Host.Outcome State Fault Refusal := .next (s.readWindow 6)

/-- Offset 7, outside the window: reads 0x00 (R158). -/
def execNoiseRd7 (s : State) : Host.Outcome State Fault Refusal := .next (s.readWindow 7)

end Sys2Proof.Machine
end

