-- ==== Sys2Proof/Machine/NoiseWrite.lean ====
section
/-! DEFINITION. `NOISE_WR0` to `NOISE_WR7`: the register-window writes (spec 40_noise_registers.md
R160 to R178). -/

namespace Sys2Proof.Machine

open Sys2Proof

/-- The envelope record after an offset-1 write (R161, R162, R164, R166). -/
def writeEnvelope (e : Envelope) (d : Byte) : Envelope :=
  { e with
    divider := dividerField d
    direction := directionField d
    initialVolume := volumeField d
    currentVolume := zombieVolume e (directionField d) }

/-- A trigger's three actions: enable, `Restart`, reseed (R170, R172 to R175). -/
def State.trigger (s : State) : State :=
  { s.restart with
    noise :=
      { s.noise with enabled := enabledAfterTrigger s.noise, lfsr := lfsrSeed s.noise.width } }

/-- Offset 0, length load (R160). -/
def execNoiseWr0 (d : Byte) (s : State) : Host.Outcome State Fault Refusal :=
  .next { s with seq := { s.seq with length := lengthLoad d } }

/-- Offset 1, envelope, with the DAC flag and zombie mode (R161). -/
def execNoiseWr1 (d : Byte) (s : State) : Host.Outcome State Fault Refusal :=
  .next
    { s with
      seq := { s.seq with env := writeEnvelope s.seq.env d }
      noise :=
        { s.noise with dacEnable := dacFlag d, enabled := enabledAfterEnvelope s.noise d } }

/-- Offset 2, unused: no effect (R167). -/
def execNoiseWr2 (_d : Byte) (s : State) : Host.Outcome State Fault Refusal := .next s

/-- Offset 3, unused: no effect (R168). -/
def execNoiseWr3 (_d : Byte) (s : State) : Host.Outcome State Fault Refusal := .next s

/-- Offset 4, frequency/control (R169). -/
def execNoiseWr4 (d : Byte) (s : State) : Host.Outcome State Fault Refusal :=
  .next
    { s with
      noise :=
        { s.noise with ratio := ratioField d, width := widthField d, shift := shiftField d } }

/-- Offset 5, length enable and trigger (R170, R171). -/
def execNoiseWr5 (d : Byte) (s : State) : Host.Outcome State Fault Refusal :=
  let s' : State := { s with noise := { s.noise with lengthEnable := lengthEnableBit d } }
  .next (if triggerBit d then s'.trigger else s')

/-- Offset 6, outside the window: no effect (R176). -/
def execNoiseWr6 (_d : Byte) (s : State) : Host.Outcome State Fault Refusal := .next s

/-- Offset 7, outside the window: no effect (R177). -/
def execNoiseWr7 (_d : Byte) (s : State) : Host.Outcome State Fault Refusal := .next s

end Sys2Proof.Machine
end

