-- ==== Sys2Proof/Machine/Reset.lean ====
section
/-! DEFINITION. `RESET`: the block reset (spec 70_reset_and_hazards.md R360 to R364; 10_state.md
R70). -/

namespace Sys2Proof.Machine

open Sys2Proof

/-- The Audio Unit's part before the channels: latches, bias record, rate tracking, and the first
`TICK` (R360). -/
def State.resetAudio (s : State) : State :=
  ({ s with
      audio :=
        { s.audio with
          latch := { zero := 0, one := 0 }
          resolution := 0
          level := 0x100
          resolutionOld := 0 } }).schedule .tick (mixerInterval 0)

/-- `SequencerReset()` (R241, R70). `S.fs_step` follows in `State.resetFrameSequencer`. -/
def State.resetSequencer (s : State) : State :=
  { s with
    seq :=
      { s.seq with
        length := 0
        env :=
          { initialVolume := 0, direction := 0, divider := 0, currentVolume := 0, active := false,
            timer := 0 } } }

/-- The noise channel's `Reset()` (R360). -/
def State.resetNoise (s : State) : State :=
  ({ s.resetSequencer with
      noise :=
        { lfsr := 0, width := 0, ratio := 0, shift := 0, dacEnable := false, enabled := false,
          lengthEnable := false, sample := 0, skipCount := 0 } }).schedule .generate baseInterval

/-- The frame sequencer, under `FS512` only (R360; log entry 20, DEDUCED, safe). -/
def State.resetFrameSequencer (s : State) : State :=
  match s.params.seqSchedule with
  | .fs512 => ({ s with seq := { s.seq with fsStep := 0 } }).schedule .seq seqPeriod
  | .external => s

/-- `Open`, the ring buffer and the resampler (R360; log entry 7, DESIGN CHOICE, unsafe). -/
def State.reopen (s : State) : State :=
  ({ s with
      audio := { s.audio with deviceOk := s.openSucceeds }
      rb := []
      rs := s.rs.atReset (generationRate 0) s.params.hostRate }).drawn

/-- `Close()`, which lets a running callback end (R319, R356; log entry 23, DEDUCED, safe), and then the
device opened again (R360). A callback that breaks the ring buffer's contract is refused (R95). -/
def State.resetDevice (s : State) : Except Refusal State :=
  match s.finishPull with
  | .error r => .error r
  | .ok t => .ok t.reopen

/-- The status a reset returns (R331). -/
def resetStatusOf (ok : Bool) : ResetStatus := if ok then .ok else .audioDeviceUnavailable

/-- The status given to the BUS agent (R331). -/
def State.giveStatus (s : State) : State := s.emit (.resetStatus (resetStatusOf s.audio.deviceOk))

/-- The block reset (R360). -/
def execReset (s : State) : Host.Outcome State Fault Refusal :=
  match s.cancelEvents.resetAudio.resetNoise.resetFrameSequencer.resetDevice with
  | .error r => .refused r
  | .ok t => .next t.giveStatus

end Sys2Proof.Machine
end

