-- ==== Sys2Proof/Machine/Sequencer.lean ====
section
/-! DEFINITION. The Sequencer's clocks: `EV_SEQ`, `EV_LENGTH_CLOCK` and `EV_ENVELOPE_CLOCK` (spec
42_sequencer.md R250 to R259). -/

namespace Sys2Proof.Machine

open Sys2Proof

/-- Whether a frame-sequencer step clocks the length counter (R258). -/
def clocksLength (step : BitVec 3) : Bool := step = 0 || step = 2 || step = 4 || step = 6

/-- Whether a frame-sequencer step clocks the envelope (R258). -/
def clocksEnvelope (step : BitVec 3) : Bool := step = 7

/-- The length clock of a frame-sequencer step, with its trace word (R120, R258). -/
def State.seqLength (s : State) : State :=
  if clocksLength s.seq.fsStep then s.lengthClock.emit (.trace 0xB000) else s

/-- The envelope clock of a frame-sequencer step, with its trace word (R120, R258). -/
def State.seqEnvelope (s : State) : State :=
  if clocksEnvelope s.seq.fsStep then s.envelopeClock.emit (.trace 0xC000) else s

/-- The frame sequencer moves to its next step (R258). -/
def State.advanceStep (s : State) : State :=
  { s with seq := { s.seq with fsStep := s.seq.fsStep + 1 } }

/-- The rule of `SEQ` (R258). -/
def seqBody (cyclesLate : Nat) (s : State) : State :=
  s.seqLength.seqEnvelope.advanceStep.schedule .seq ((seqPeriod : Int) - cyclesLate)

/-- The frame-sequencer step (R258). -/
def execEvSeq (s : State) : Host.Outcome State Fault Refusal := fire .seq seqBody s

/-- One length clock (R250). -/
def execEvLengthClock (s : State) : Host.Outcome State Fault Refusal := .next s.lengthClock

/-- One envelope clock (R255). -/
def execEvEnvelopeClock (s : State) : Host.Outcome State Fault Refusal := .next s.envelopeClock

end Sys2Proof.Machine
end

