-- ==== Sys2Proof/Machine/Dispatch.lean ====
section
/-! DEFINITION. The meaning of every instruction, one arm per constructor. -/

namespace Sys2Proof.Machine

open Sys2Proof

/-- One transaction or one firing of an event: one atomic step of the block (R336, R350). -/
def exec (i : Instr) (s : State) : Host.Outcome State Fault Refusal :=
  match i with
  | .noiseRd0 => Sys2Proof.Machine.execNoiseRd0 s
  | .noiseRd1 => Sys2Proof.Machine.execNoiseRd1 s
  | .noiseRd2 => Sys2Proof.Machine.execNoiseRd2 s
  | .noiseRd3 => Sys2Proof.Machine.execNoiseRd3 s
  | .noiseRd4 => Sys2Proof.Machine.execNoiseRd4 s
  | .noiseRd5 => Sys2Proof.Machine.execNoiseRd5 s
  | .noiseRd6 => Sys2Proof.Machine.execNoiseRd6 s
  | .noiseRd7 => Sys2Proof.Machine.execNoiseRd7 s
  | .noiseWr0 d => Sys2Proof.Machine.execNoiseWr0 d s
  | .noiseWr1 d => Sys2Proof.Machine.execNoiseWr1 d s
  | .noiseWr2 d => Sys2Proof.Machine.execNoiseWr2 d s
  | .noiseWr3 d => Sys2Proof.Machine.execNoiseWr3 d s
  | .noiseWr4 d => Sys2Proof.Machine.execNoiseWr4 d s
  | .noiseWr5 d => Sys2Proof.Machine.execNoiseWr5 d s
  | .noiseWr6 d => Sys2Proof.Machine.execNoiseWr6 d s
  | .noiseWr7 d => Sys2Proof.Machine.execNoiseWr7 d s
  | .biasWr l r => Sys2Proof.Machine.execBiasWr l r s
  | .latchFifo f t => Sys2Proof.Machine.execLatchFifo f t s
  | .hostPull n => Sys2Proof.Machine.execHostPull n s
  | .reset => Sys2Proof.Machine.execReset s
  | .evGenerate => Sys2Proof.Machine.execEvGenerate s
  | .evTick => Sys2Proof.Machine.execEvTick s
  | .evSeq => Sys2Proof.Machine.execEvSeq s
  | .evLengthClock => Sys2Proof.Machine.execEvLengthClock s
  | .evEnvelopeClock => Sys2Proof.Machine.execEvEnvelopeClock s

end Sys2Proof.Machine
end

