-- ==== Sys2Proof/Machine/Agents.lean ====
section
/-! DEFINITION. The agents: which of them moves next, SCHED firing a pending event, the listed program's
agent issuing a transaction, HOST, or the external frame sequencer (spec 10_state.md R30;
60_exceptions.md R342 to R345, R350 to R352; 42_sequencer.md R259; 30_encoding.md R123), and where a
word is placed so that the very next step runs it. -/

namespace Sys2Proof.Machine

open Sys2Proof

/-- The instruction a firing of an event runs (R341). -/
def EventKind.instr : EventKind → Instr
  | .generate => .evGenerate
  | .tick => .evTick
  | .seq => .evSeq

/-- One of a list of events with equal deadlines, as the open `TIE_ORDER` draws it (R344; log entry
1, DESIGN CHOICE, safe). -/
def drawTie (ties : List Event) (n : Nat) (first : Event) : Event :=
  match ties with
  | [e] => e
  | _ => (ties[Config.tieChoice n % ties.length]?).getD first

/-- The event SCHED fires next: one with the smallest deadline, chosen by `TIE_ORDER` (R342, R344). -/
def State.chosenEvent (s : State) : Option Event :=
  match earliest s.sched.pending with
  | none => none
  | some m =>
    match s.params.tieOrder with
    | .regFifo => some m
    | .anyOrder =>
      some (drawTie (s.sched.pending.filter (fun e => decide (e.deadline = m.deadline))) s.draws m)

/-- Whether an event due at a transaction's own cycle fires before it (R345; log entry 2, DESIGN
CHOICE, safe). -/
def State.eventsFirst (s : State) : Bool :=
  match s.params.cpuSync with
  | .eventsFirst => true
  | .eitherOrder => Config.eventFirst s.draws

/-- The two clocks of the external frame sequencer (R259). -/
inductive Clock where
  | length
  | envelope
  deriving DecidableEq, Repr

/-- The instruction that a clock is. -/
def Clock.instr : Clock → Instr
  | .length => .evLengthClock
  | .envelope => .evEnvelopeClock

/-- What happens next. -/
inductive Move where
  /-- HOST takes a step. -/
  | host
  /-- The external frame sequencer issues a clock. -/
  | clock (c : Clock)
  /-- SCHED fires the pending event of this kind. -/
  | fire (kind : EventKind)
  /-- The agent of the first listed pair issues its word. -/
  | issue (t : Nat) (w : TxWord)
  /-- No step is possible. -/
  | stop (r : Refusal)
  deriving DecidableEq, Repr

/-- Which agent of the emulation context moves next. With a pair `(t, w)` listed first: refused where
`t` is below `E.now`; every event due before `t` fires first, and one due at `t` as `CPU_SYNC` says
(R345). With nothing listed, SCHED fires (R342). -/
def State.emulationMove (s : State) : Move :=
  match s.program with
  | [] =>
    match s.chosenEvent with
    | none => .stop .eventNotPending
    | some e => .fire e.kind
  | (t, w) :: _ =>
    if t < s.sched.now then .stop .programOrder
    else
      match s.chosenEvent with
      | none => .issue t w
      | some e =>
        if e.deadline < t then .fire e.kind
        else if e.deadline = t then if s.eventsFirst then .fire e.kind else .issue t w
        else .issue t w

/-- Whether the external frame sequencer may issue a clock: under `EXTERNAL`, unless the first listed pair
is late already and the run is to end there (R259, R345). -/
def State.clockEnabled (s : State) : Bool :=
  decide (s.params.seqSchedule = .external) && decide (s.params.externalClocks = .anyClocks) &&
    (match s.program with
    | [] => true
    | (t, _) :: _ => decide (s.sched.now ≤ t))

/-- Whether the next step is the external frame sequencer's. -/
def State.clockMoves (s : State) : Bool := decide (s.turn = .frameSequencer) && s.clockEnabled

/-- The clock that comes, where one does (R259; log entry 29, DESIGN CHOICE, safe). -/
def State.drawnClock (s : State) : Clock :=
  if Config.envelopeClockNext s.draws then .envelope else .length

/-- The cycle it comes at: any from `E.now` on, up to that of the first listed pair (R259; log entry 29,
DESIGN CHOICE, safe). -/
def State.clockCycle (s : State) : Nat :=
  match s.program with
  | [] => s.sched.now + Config.clockDelay s.draws
  | (t, _) :: _ => s.sched.now + min (Config.clockDelay s.draws) (t - s.sched.now)

/-- Which agent moves next: HOST or the external frame sequencer where it has a step and the draw for this
step is its own, else the block's own agents (R259, R350 to R352; log entries 12 and 29, DESIGN CHOICE,
safe). -/
def State.nextMove (s : State) : Move :=
  if s.hostMoves then .host
  else if s.clockMoves then .clock s.drawnClock
  else s.emulationMove

/-- Whether an agent outside SCHED may issue an instruction: not the three internal events, and the
two clocks only where the schedule is external (R123, R259). -/
def mayIssue (schedule : SeqSchedule) : Instr → Bool
  | .noiseRd0 => true
  | .noiseRd1 => true
  | .noiseRd2 => true
  | .noiseRd3 => true
  | .noiseRd4 => true
  | .noiseRd5 => true
  | .noiseRd6 => true
  | .noiseRd7 => true
  | .noiseWr0 _ => true
  | .noiseWr1 _ => true
  | .noiseWr2 _ => true
  | .noiseWr3 _ => true
  | .noiseWr4 _ => true
  | .noiseWr5 _ => true
  | .noiseWr6 _ => true
  | .noiseWr7 _ => true
  | .biasWr _ _ => true
  | .latchFifo _ _ => true
  | .hostPull _ => true
  | .reset => true
  | .evGenerate => false
  | .evTick => false
  | .evSeq => false
  | .evLengthClock => decide (schedule = .external)
  | .evEnvelopeClock => decide (schedule = .external)

/-- The state in which a listed transaction runs: `E.now` is its cycle and its pair is gone (R345). -/
def State.atIssue (s : State) (t : Nat) : State :=
  { s.advance with sched := { s.sched with now := t }, program := s.program.tail }

/-- The state in which the external frame sequencer's clock runs: `E.now` is its cycle (R259). -/
def State.atClock (s : State) : State :=
  { s.advance with sched := { s.sched with now := s.clockCycle } }

/-- The refusal of a word that decodes to nothing (R122, R333). -/
def refusalOf : DecodeError → Refusal
  | .reservedPort => .reservedPort
  | .reservedBits => .reservedBits

/-- A listed word is issued at cycle `t` (R122, R123, R345). -/
def issueWord (t : Nat) (w : TxWord) (s : State) : Host.Outcome State Fault Refusal :=
  match decode w with
  | .error e => .refused (refusalOf e)
  | .ok i =>
    if mayIssue s.params.seqSchedule i then exec i (s.atIssue t) else .refused .internalEvent

/-- One step of the block and its agents. The counter of draws moves on at every step, so that the
choices of `State.nextMove` are new each time (log entry 11, DESIGN CHOICE, unsafe). -/
def agentStep (s : State) : Host.Outcome State Fault Refusal :=
  match s.nextMove with
  | .stop r => .refused r
  | .host => answer s.advance.hostStep
  | .clock c => exec c.instr s.atClock
  | .fire kind => exec kind.instr s.advance
  | .issue t w => issueWord t w s

/-- An event that is due by `E.now` is put off to the cycle after it; any other keeps its deadline. -/
def Event.putOff (now : Nat) (e : Event) : Event :=
  if e.deadline ≤ now then { e with deadline := now + 1 } else e

/-- The word is listed first, for the current cycle, with no event due by then (log entry 16, DESIGN
CHOICE, safe). -/
def State.placeTransaction (s : State) (w : TxWord) : State :=
  { s with
    program := (s.sched.now, w) :: s.program
    turn := .emulation
    sched := { s.sched with pending := s.sched.pending.map (Event.putOff s.sched.now) } }

/-- The schedule of the two clocks is external, where no `SEQ` event exists (R259; log entry 16,
DESIGN CHOICE, safe). -/
def State.withExternalClocks (s : State) : State :=
  { s with
    params := { s.params with seqSchedule := .external }
    sched := { s.sched with pending := s.sched.pending.filter (fun e => decide (e.kind ≠ .seq)) } }

/-- The event of a kind is due now, every other event and every listed pair later; one is registered
where none of that kind is pending (log entry 16, DESIGN CHOICE, safe). -/
def State.placeEvent (s : State) (kind : EventKind) : State :=
  let others :=
    s.sched.pending.map fun e =>
      if e.kind = kind then { e with deadline := s.sched.now } else e.putOff s.sched.now
  let s' : State :=
    { s with
      program := s.program.filter (fun p => decide (s.sched.now < p.1))
      turn := .emulation
      sched := { s.sched with pending := others } }
  if s.eventsOf kind = [] then s'.schedule kind 0 else s'

/-- Where a word must stand for the very next step to run its instruction (log entry 16, DESIGN
CHOICE, safe). -/
def placeWord (s : State) (nbits w : Nat) : State :=
  match decodeTableWord nbits w with
  | some .evGenerate => s.placeEvent .generate
  | some .evTick => s.placeEvent .tick
  | some .evSeq => s.placeEvent .seq
  | some .evLengthClock => s.withExternalClocks.placeTransaction (BitVec.ofNat 16 w)
  | some .evEnvelopeClock => s.withExternalClocks.placeTransaction (BitVec.ofNat 16 w)
  | _ => s.placeTransaction (BitVec.ofNat 16 (w % 2 ^ nbits))

end Sys2Proof.Machine
end

