-- ==== Sys2Proof/Machine/Step.lean ====
section
/-! DEFINITION. The step: SCHED fires the next event, the next listed transaction is issued, or HOST or
the external frame sequencer moves (spec 60_exceptions.md R342 to R345, R351; 42_sequencer.md R259);
and a state in which a given word comes next. -/

namespace Sys2Proof.Machine

/-- One step (R336, R350). -/
def step (s : State) : Host.Outcome State Fault Refusal := Sys2Proof.Machine.agentStep s

/-- `s` with the instruction of a word placed so that the next step runs it (log entry 16, DESIGN
CHOICE, safe). -/
def State.withFetchWord (s : State) (nbits w : Nat) : State :=
  Sys2Proof.Machine.placeWord s nbits w

end Sys2Proof.Machine
end

