-- ==== Sys2Proof/Safety.lean ====
section
/-! DEFINITION. The terms claims are stated in: the invariant of the reachable states (spec 10_state.md
R72 and the ranges beside it), where a run is cut (60_exceptions.md R355), and the views of a state
that forget what a claim says nothing depends on. -/

namespace Sys2Proof.Machine

open Sys2Proof

/-- How many `SEQ` events a schedule has pending (R55, R259). -/
def seqEvents (schedule : SeqSchedule) : Nat :=
  match schedule with
  | .fs512 => 1
  | .external => 0

/-- Every frame that a running pull will have made at its end, `out[0]` first: those it has made, and
then the oldest queued, or the queued ones again and again from its index on (R312, R313). -/
def Pull.output (p : Pull) (rb : List Frame) : List Frame :=
  p.made ++
    match p.path with
    | .reading => rb.take (p.more + 1)
    | .peeking =>
      (List.range (p.more + 1)).map fun j => (rb[(p.index + j) % p.avail]?).getD silence

/-- What the ring buffer is after the rest of a running pull (R312, R313). -/
def Pull.leaves (p : Pull) (rb : List Frame) : List Frame :=
  match p.path with
  | .reading => rb.drop (p.more + 1)
  | .peeking => rb

/-- `t` differs from `s` only in what HOST's steps touch: the ring buffer, the running pull, the outputs
and the model's counter of draws (R98, R356). -/
def HostOnly (s t : State) : Prop :=
  t = { s with rb := t.rb, pull := t.pull, out := t.out, draws := t.draws }

/-- What holds in every reachable state. The first five are R72 items 2 to 5; the others are the
ranges and relations of R37, R55, R59, R95, R281, R290, R319 and R8. R72 item 1 is the type of `currentVolume`. -/
structure Invariant (s : State) : Prop where
  /-- R72 item 2. -/
  dac : s.noise.dacEnable = false → s.noise.enabled = false
  /-- R72 item 3. -/
  skip : s.noise.skipCount ≤ 15
  /-- R72 item 4. -/
  length : s.seq.length ≤ 64
  /-- R72 item 5. -/
  generatePending : (s.eventsOf .generate).length = 1
  /-- R72 item 5. -/
  tickPending : (s.eventsOf .tick).length = 1
  /-- R72 item 5, R259. -/
  seqPending : (s.eventsOf .seq).length = seqEvents s.params.seqSchedule
  /-- R37: a multiple of 8 in [-120, 120]. -/
  sampleLow : -120 ≤ s.noise.sample
  /-- R37. -/
  sampleHigh : s.noise.sample ≤ 120
  /-- R37. -/
  sampleEight : s.noise.sample % 8 = 0
  /-- R55: registration numbers rise along the list (log entry 18). -/
  regsRise : s.sched.pending.Pairwise (fun a b => a.reg < b.reg)
  /-- R55: each is below the next registration number. -/
  regsBelow : ∀ e ∈ s.sched.pending, e.reg < s.sched.nextReg
  /-- R59. -/
  ring : s.rb.length ≤ s.params.ringCapacity
  /-- R319: a pull runs only while the device is open. -/
  pullDevice : s.pull.isSome = true → s.audio.deviceOk = true
  /-- R95, R98 item 2: a running pull keeps to the ring buffer's contract. -/
  pullContract : s.pullInContract
  /-- R281, R290: the resampler's input rate is that of the recorded resolution. -/
  inRate : s.rs.inRate = generationRate s.audio.resolutionOld
  /-- R281. -/
  outRate : s.rs.outRate = s.params.hostRate
  /-- R8. -/
  hostRate : 0 < s.params.hostRate
  /-- R8. -/
  ringCapacity : 0 < s.params.ringCapacity

/-- Whether a run to horizon `T` ends in this state: every pair with `t <= T` has been issued and no
event with deadline at most `T` is pending (R355). -/
def State.cutAt (s : State) (T : Nat) : Bool :=
  s.program.all (fun p => decide (T < p.1)) && s.sched.pending.all (fun e => decide (T < e.deadline))

/-- A state without the clock: `E.now` and the cycles the outputs are stamped with are forgotten. -/
def State.offClock (s : State) : State :=
  { s with sched := { s.sched with now := 0 }, out := s.out.map (fun p => (0, p.2)) }

/-- A state with the bias level replaced. -/
def State.withLevel (s : State) (l : BitVec 10) : State := { s with audio := { s.audio with level := l } }

/-- A register-window transaction (R80). -/
def windowTransaction : Instr → Bool
  | .noiseRd0 => true
  | .noiseRd1 => true
  | .noiseRd2 => true
  | .noiseRd3 => true
  | .noiseRd4 => true
  | .noiseRd5 => true
  | .noiseRd6 => true
  | .noiseRd7 => true
  | .noiseWr0 _ => true
  | .noiseWr1 _ => true
  | .noiseWr2 _ => true
  | .noiseWr3 _ => true
  | .noiseWr4 _ => true
  | .noiseWr5 _ => true
  | .noiseWr6 _ => true
  | .noiseWr7 _ => true
  | .biasWr _ _ => false
  | .latchFifo _ _ => false
  | .hostPull _ => false
  | .reset => false
  | .evGenerate => false
  | .evTick => false
  | .evSeq => false
  | .evLengthClock => false
  | .evEnvelopeClock => false

end Sys2Proof.Machine
end

