-- ==== Sys2Proof/Certificates/Slice0/Obligations.lean ====
section
/-! DEFINITION. The statements for the provers. Each docstring names the rules of the spec that the
statement formalises. -/

open Sys2Proof Sys2Proof.Machine

/-! ### Encoding -/

/-- 30_encoding.md R120 to R125: the word of a well-formed instruction decodes to it, with every
operand at every value its field admits. -/
def Obligations.DecodeEncodedInstruction : Prop :=
  ∀ i : Instr, i.wellFormed = true → decode (encode i) = .ok i

/-- R124: a word that decodes is the word of what it decodes to, so no bit of it is dropped, and what
it decodes to is well-formed. -/
def Obligations.EncodeDecodedWord : Prop :=
  ∀ (w : TxWord) (i : Instr), decode w = .ok i → encode i = w ∧ i.wellFormed = true

/-- R125: a decoded word matches its instruction's row, and a word that matches a row decodes to an
instruction of that row and of no other. -/
def Obligations.DecodingFollowsTheOpcodeRows : Prop :=
  (∀ (w : TxWord) (i : Instr), decode w = .ok i → w &&& rowMask i = rowMatch i) ∧
  ∀ (w : TxWord) (i : Instr), w &&& rowMask i = rowMatch i →
    ∃ j, decode w = .ok j ∧ rowMatch j = rowMatch i ∧ rowMask j = rowMask i

/-- R122 (the spec's decision D40): which words decode to nothing, and by which name. -/
def Obligations.ReservedWordsAreRejected : Prop :=
  ∀ w : TxWord,
    let p := w.toNat / 4096
    let low := w.toNat % 4096
    (decode w = .error .reservedPort ↔ p = 6 ∨ p = 7 ∨ 13 ≤ p) ∧
    (decode w = .error .reservedBits ↔
      (p = 0 ∧ (2048 ≤ low ∨ low % 256 ≠ 0)) ∨ (p = 1 ∧ 2048 ≤ low) ∨ (p = 3 ∧ 512 ≤ low) ∨
      ((p = 5 ∨ (8 ≤ p ∧ p ≤ 12)) ∧ low ≠ 0))

/-- Words of 95_test_vectors.md section 2.9 decode as it says. -/
def Obligations.SpelledWordsDecode : Prop :=
  decode 0x15C0 = .ok (.noiseWr5 0xC0) ∧ decode 0x2403 = .ok (.biasWr 0x100 3) ∧
  decode 0x3105 = .ok (.latchFifo .fifo1 5) ∧ decode 0x4010 = .ok (.hostPull 16) ∧
  decode 0x1600 = .ok (.noiseWr6 0) ∧ decode 0x0700 = .ok .noiseRd7 ∧
  decode 0x5000 = .ok .reset ∧ decode 0x8000 = .ok .evGenerate ∧
  decode 0xB000 = .ok .evLengthClock ∧ decode 0x0800 = .error .reservedBits ∧
  decode 0xD000 = .error .reservedPort

/-! ### Register-window reads -/

/-- R86, R150 (with R151 to R156): every read runs in every state, gives out one byte, at offsets 0 to 5
the byte the registers hold, and changes nothing else. The bytes read at offsets 6 and 7 are the spec's
decision D18, which `OutsideOffsetsIgnoreWrites` states. -/
def Obligations.WindowReadsReturnRegisterBytes : Prop :=
  ∀ s : State,
    let give (b : Byte) : Host.Outcome State Fault Refusal :=
      .next { s with out := s.out ++ [(s.sched.now, .readData b)] }
    exec .noiseRd0 s = give 0 ∧
    exec .noiseRd1 s =
      give (BitVec.ofNat 8
        (s.seq.env.divider.toNat + 8 * s.seq.env.direction.toNat +
          16 * s.seq.env.initialVolume.toNat)) ∧
    exec .noiseRd2 s = give 0 ∧
    exec .noiseRd3 s = give 0 ∧
    exec .noiseRd4 s =
      give (BitVec.ofNat 8
        (s.noise.ratio.toNat + 8 * s.noise.width.toNat + 16 * s.noise.shift.toNat)) ∧
    exec .noiseRd5 s = give (if s.noise.lengthEnable then 0x40 else 0x00) ∧
    (∃ b, exec .noiseRd6 s = give b) ∧
    ∃ b, exec .noiseRd7 s = give b

/-- R152, R155, R156 (corner cases the spec derives): a byte written to offset 1 or 4 reads back
whole, and of a byte written to offset 5 bit 6 alone. -/
def Obligations.WrittenBytesReadBack : Prop :=
  (∀ (d : Byte) (s t : State), exec (.noiseWr1 d) s = .next t →
    exec .noiseRd1 t = .next { t with out := t.out ++ [(t.sched.now, .readData d)] }) ∧
  (∀ (d : Byte) (s t : State), exec (.noiseWr4 d) s = .next t →
    exec .noiseRd4 t = .next { t with out := t.out ++ [(t.sched.now, .readData d)] }) ∧
  (∀ (d : Byte) (s t : State), exec (.noiseWr5 d) s = .next t →
    exec .noiseRd5 t = .next { t with out := t.out ++ [(t.sched.now, .readData (d &&& 0x40))] })

/-! ### Register-window writes -/

/-- R110: an offset-0 write loads `64 - d[5:0]` and changes nothing else; offset 0 reads 0. -/
def Obligations.LengthWriteLoadsCounter : Prop :=
  ∀ (d : Byte) (s : State),
    exec (.noiseWr0 d) s =
      .next { s with seq := { s.seq with length := 64 - d.toNat % 64 } } ∧
    exec .noiseRd0 s = .next { s with out := s.out ++ [(s.sched.now, .readData 0)] }

/-- R162 (with R163): the fields and flags an offset-1 write leaves, that the byte reads back as it
was written, and that nothing else changes but the current volume, which `ZombieAdjustsVolume`
gives. -/
def Obligations.EnvelopeWriteSetsFieldsAndFlags : Prop :=
  ∀ (d : Byte) (s : State), ∃ (t : State) (vol : BitVec 4),
    exec (.noiseWr1 d) s = .next t ∧
    t =
      { s with
        seq :=
          { s.seq with
            env :=
              { s.seq.env with
                divider := BitVec.ofNat 3 (d.toNat % 8)
                direction := BitVec.ofNat 1 (d.toNat / 8 % 2)
                initialVolume := BitVec.ofNat 4 (d.toNat / 16)
                currentVolume := vol } }
        noise :=
          { s.noise with
            dacEnable := decide (8 ≤ d.toNat)
            enabled := s.noise.enabled && decide (8 ≤ d.toNat) } } ∧
    exec .noiseRd1 t = .next { t with out := t.out ++ [(t.sched.now, .readData d)] }

/-- R164, R165, R166: the volume after an offset-1 write, from the divider, direction, activity and
volume before it and the new direction; the activity is read and not changed. -/
def Obligations.ZombieAdjustsVolume : Prop :=
  ∀ (d : Byte) (s : State), ∃ t, exec (.noiseWr1 d) s = .next t ∧
    t.seq.env.active = s.seq.env.active ∧
    let e := s.seq.env
    let cur := e.currentVolume.toNat
    let keep := e.direction.toNat = d.toNat / 8 % 2
    t.seq.env.currentVolume.toNat =
      if e.divider = 0 ∧ e.active = true then
        if keep then (cur + 1) % 16 else 15 - cur
      else if e.direction = 0 then
        if keep then (cur + 2) % 16 else (30 - cur) % 16
      else
        if keep then cur else (16 - cur) % 16

/-- R112, R167, R168: writes to offsets 2 and 3 change nothing, their words are `0x12dd` and
`0x13dd`, and offsets 0, 2 and 3 read 0 in every state. -/
def Obligations.UnusedOffsetsIgnoreWrites : Prop :=
  ∀ (d : Byte) (s : State),
    exec (.noiseWr2 d) s = .next s ∧ exec (.noiseWr3 d) s = .next s ∧
    (encode (.noiseWr2 d)).toNat = 0x1200 + d.toNat ∧
    (encode (.noiseWr3 d)).toNat = 0x1300 + d.toNat ∧
    exec .noiseRd0 s = .next { s with out := s.out ++ [(s.sched.now, .readData 0)] } ∧
    exec .noiseRd2 s = .next { s with out := s.out ++ [(s.sched.now, .readData 0)] } ∧
    exec .noiseRd3 s = .next { s with out := s.out ++ [(s.sched.now, .readData 0)] }

/-- R157, R158, R176, R177, R81 (the spec's decision D18): writes outside the window change nothing, and
reads there give 0 in every state. -/
def Obligations.OutsideOffsetsIgnoreWrites : Prop :=
  ∀ (d : Byte) (s : State),
    exec (.noiseWr6 d) s = .next s ∧ exec (.noiseWr7 d) s = .next s ∧
    exec .noiseRd6 s = .next { s with out := s.out ++ [(s.sched.now, .readData 0)] } ∧
    exec .noiseRd7 s = .next { s with out := s.out ++ [(s.sched.now, .readData 0)] }

/-- R169: the fields an offset-4 write stores, and that nothing else changes: the pending `GENERATE`
keeps its deadline and the LFSR its state. -/
def Obligations.FrequencyWriteSetsFields : Prop :=
  ∀ (d : Byte) (s : State),
    exec (.noiseWr4 d) s =
      .next
        { s with
          noise :=
            { s.noise with
              ratio := BitVec.ofNat 3 (d.toNat % 8)
              width := BitVec.ofNat 1 (d.toNat / 8 % 2)
              shift := BitVec.ofNat 4 (d.toNat / 16) } }

/-- R171: every offset-5 write sets `length_enable` from bit 6, trigger or not, before the trigger's
actions, and offset 5 then reads that bit alone. -/
def Obligations.ControlWriteSetsLengthEnable : Prop :=
  ∀ (d : Byte) (s : State),
    let bit := decide (d.toNat / 64 % 2 = 1)
    let s' := { s with noise := { s.noise with lengthEnable := bit } }
    ∃ t, exec (.noiseWr5 d) s = .next t ∧ (t = s' ∨ t = s'.trigger) ∧ t.noise.lengthEnable = bit ∧
      exec .noiseRd5 t =
        .next { t with out := t.out ++ [(t.sched.now, .readData (if bit then 0x40 else 0x00))] }

/-- R170 to R175 and R245 (trigger bit, seeds and the active flag are the spec's decisions D11, D8,
D15): the whole effect of an offset-5 write. -/
def Obligations.TriggerRestartsTheChannel : Prop :=
  ∀ (d : Byte) (s : State),
    let lengthEnable := decide (d.toNat / 64 % 2 = 1)
    exec (.noiseWr5 d) s =
      .next
        (if 128 ≤ d.toNat then
          { s with
            noise :=
              { s.noise with
                lengthEnable := lengthEnable
                enabled := s.noise.enabled || s.noise.dacEnable
                lfsr := if s.noise.width = 0 then 0x4000 else 0x0040 }
            seq :=
              { s.seq with
                length := if s.seq.length = 0 then 64 else s.seq.length
                env :=
                  { s.seq.env with
                    timer := s.seq.env.divider
                    currentVolume := s.seq.env.initialVolume
                    active := true } } }
        else { s with noise := { s.noise with lengthEnable := lengthEnable } })

/-- R178: no register-window transaction raises a condition, and none reads or changes `E.pending`,
`A` or `RB` (nor changes anything else outside `N`, `S` and the outputs). -/
def Obligations.WindowTransactionsTouchOnlyTheChannel : Prop :=
  ∀ (i : Instr) (s : State), windowTransaction i = true →
    ∃ t, exec i s = .next t ∧
      t.sched = s.sched ∧ t.audio = s.audio ∧ t.rb = s.rb ∧ t.rs = s.rs ∧ t.fifos = s.fifos ∧
      t.program = s.program ∧ t.draws = s.draws ∧ t.pull = s.pull ∧ t.turn = s.turn ∧
      t.params = s.params ∧
      ∀ (p : List Event) (a : Audio) (rb : List Frame),
        exec i { s with sched := { s.sched with pending := p }, audio := a, rb := rb } =
          .next { t with sched := { t.sched with pending := p }, audio := a, rb := rb }

/-! ### The Audio Unit -/

/-- R271 (the port form is the spec's decision D19): a bias write stores its two fields and changes
nothing else; the pending `TICK` keeps its deadline. -/
def Obligations.BiasWriteStoresFields : Prop :=
  ∀ (l : BitVec 10) (r : BitVec 2) (s : State),
    exec (.biasWr l r) s = .next { s with audio := { s.audio with resolution := r, level := l } }

/-- R89, R275, R276 (one pulse per drain is the spec's decision D45; the arrivals are the model's, log
entry 5): `t` drains of FIFO `i`, whose bytes are its contents and then what has arrived. The latch
holds the last byte drained; where the FIFO ran empty nothing is said of it (log entry 4). -/
def Obligations.LatchDrainsOldestBytes : Prop :=
  ∀ (i : FifoId) (t : Nat) (s : State),
    let q := s.fifos.get i ++ s.arrivals i
    ∃ u, exec (.latchFifo i t) s = .next u ∧
      u.fifos.get i = q.drop t ∧
      (t = 0 → u.audio.latch = s.audio.latch) ∧
      (0 < t → t ≤ q.length → some (u.audio.latch.get i) = q[t - 1]?) ∧
      (∀ j, j ≠ i → u.fifos.get j = s.fifos.get j ∧ u.audio.latch.get j = s.audio.latch.get j) ∧
      u.audio = { s.audio with latch := u.audio.latch } ∧
      u.out = s.out ++ List.replicate (t - (q.length - 17)) (s.sched.now, .dmaRequest i) ∧
      u.noise = s.noise ∧ u.seq = s.seq ∧ u.sched = s.sched ∧ u.rb = s.rb ∧ u.rs = s.rs ∧
      u.pull = s.pull ∧ u.program = s.program ∧ u.turn = s.turn ∧ u.params = s.params

/-- R281, with the frame of R280: a Tick pushes into a resampler `r` that it has reconfigured exactly where
the resolution changed since the last one, records the resolution, and leaves the channel, the
Sequencer, the latches, the bias record and the FIFOs alone. The push keeps the configured pair of rates
(R59, R290). Where HOST has no step between the Tick's ring-buffer writes, the queued frames stay and
the trace is the one output. -/
def Obligations.TickReconfiguresOnChange : Prop :=
  ∀ s : State, s.pullInContract → (∃ e ∈ s.sched.pending, e.kind = .tick) →
    ∃ (t : State) (r : Resampler) (f : Frame), exec .evTick s = .next t ∧
      (s.audio.resolution ≠ s.audio.resolutionOld →
        r.inRate = 32768 * 2 ^ s.audio.resolution.toNat ∧ r.outRate = s.params.hostRate) ∧
      (s.audio.resolution = s.audio.resolutionOld → r = s.rs) ∧
      t.rs = (r.push s.params.resampler f).1 ∧ t.rs.inRate = r.inRate ∧ t.rs.outRate = r.outRate ∧
      t.audio = { s.audio with resolutionOld := s.audio.resolution } ∧
      t.noise = s.noise ∧ t.seq = s.seq ∧ t.fifos = s.fifos ∧ t.program = s.program ∧
      t.turn = s.turn ∧ t.params = s.params ∧
      (s.hostEnabled = false →
        s.rb <+: t.rb ∧ t.pull = s.pull ∧ t.out = s.out ++ [(t.sched.now, .trace 0x9000)])

/-- R280, R281, R283 to R286, R91, R96 (which channels are mixed, the sides and the exact rationals are
the spec's decisions D22, D23, D24): the frame `f` a Tick pushes, whatever signed bytes the square
channels present, for every resampler and whether or not the resolution changed. The resampler's new
state and its output frames are those of `RsPush(f)` after the Tick's step 1, `IDENTITY` gives `f`
itself, and the frames are written into the ring buffer in their order: one after the other where HOST
has no step between them, and otherwise with HOST's steps between them (log entry 12). -/
def Obligations.TickPushesExactMix : Prop :=
  ∀ (s : State) (e : Event), s.pullInContract → earliest (s.eventsOf .tick) = some e →
    ∃ (t : State) (q : PerFifo Byte) (f : Frame), exec .evTick s = .next t ∧
      (∀ q', s.params.squares = some q' → q = q') ∧
      f.left = (s.audio.latch.zero.toInt : Rat) / 256 +
        ((q.zero.toInt + q.one.toInt + s.noise.sample : Int) : Rat) / 512 ∧
      f.right = (s.audio.latch.one.toInt : Rat) / 256 +
        ((q.zero.toInt + q.one.toInt + s.noise.sample : Int) : Rat) / 512 ∧
      let r :=
        if s.audio.resolution = s.audio.resolutionOld then s.rs
        else s.rs.configure (32768 * 2 ^ s.audio.resolution.toNat) s.params.hostRate
      let pushed := r.push s.params.resampler f
      (s.params.resampler = .identity → r.inRate = r.outRate → pushed.2 = [f]) ∧
      t.rs = pushed.1 ∧
      (s.hostEnabled = false →
        t.rb =
          pushed.2.foldl
            (fun rb g => if rb.length < s.params.ringCapacity then rb ++ [g] else rb) s.rb) ∧
      ∃ u, produce pushed.2 { (s.beginFiring e).retune with rs := pushed.1 } = .ok u ∧
        t.rb = u.rb ∧ t.pull = u.pull ∧ t.out = u.out

/-- R287: the bias `level` is read by no rule: two states that differ only in it step to states that
differ only in it, with the same outputs, or stop for the same reason. -/
def Obligations.BiasLevelReachesNoOutput : Prop :=
  ∀ (s : State) (l : BitVec 10),
    match step s with
    | .next t => ∃ l', step (s.withLevel l) = .next (t.withLevel l')
    | .fault r => step (s.withLevel l) = .fault r
    | .refused r => step (s.withLevel l) = .refused r

/-! ### The noise synthesis event -/

/-- R203, with the two values of `LFSR_MASK` (R208; the spec's decision D7): one step of the shift
register. -/
def Obligations.LfsrStepShiftsAndFeedsBack : Prop :=
  lfsrMask 0 = 0x6000 ∧ lfsrMask 1 = 0x0060 ∧
  ∀ (w : BitVec 1) (x : BitVec 15),
    (x.toNat % 2 = 1 →
      lfsrStep w x = (8, BitVec.ofNat 15 (x.toNat / 2) ^^^ lfsrMask w)) ∧
    (x.toNat % 2 = 0 → lfsrStep w x = (-8, BitVec.ofNat 15 (x.toNat / 2)))

/-- R210, R213, R216 with `NOISE_BASE = 32` (the spec's decision D6): the skip count and the next
deadline of a `GENERATE` whose length gate passes, from the frequency fields and the resolution as
they stand when it fires. -/
def Obligations.GenerateTimingFollowsFrequency : Prop :=
  ∀ (s : State) (e : Event), earliest (s.eventsOf .generate) = some e →
    (s.noise.lengthEnable = false ∨ 0 < s.seq.length) →
    let noise := (if s.noise.ratio = 0 then 32 else 64 * s.noise.ratio.toNat) * 2 ^ s.noise.shift.toNat
    let mixer := 512 / 2 ^ s.audio.resolution.toNat
    ∃ t, exec .evGenerate s = .next t ∧
      t.noise.skipCount = (if noise < mixer then mixer / noise - 1 else 0) ∧
      t.sched.pending =
        s.sched.pending.erase e ++
          [⟨.generate, e.deadline + (if noise < mixer then mixer else noise), s.sched.nextReg⟩]

/-- R204, R205, R206 (with R200 steps 2 to 5): a `GENERATE` whose length gate passes. The LFSR
advances `1 + skip_count` steps, the DAC gates the sample alone, the new skip count is that of R213,
and the event is re-armed. Everything outside `N` stays but the scheduler's state, the trace and the
model's counter of draws. -/
def Obligations.GenerateSynthesizes : Prop :=
  ∀ s : State, (∃ e ∈ s.sched.pending, e.kind = .generate) →
    (s.noise.lengthEnable = false ∨ 0 < s.seq.length) →
    ∃ t, exec .evGenerate s = .next t ∧
      t.noise =
        { s.noise with
          lfsr := lfsrSkip s.noise.width (1 + s.noise.skipCount) s.noise.lfsr
          sample :=
            if s.noise.dacEnable then
              (if s.noise.lfsr.toNat % 2 = 1 then 8 else -8) * (s.seq.env.currentVolume.toNat : Int)
            else 0
          skipCount :=
            512 / 2 ^ s.audio.resolution.toNat / interval s.noise.ratio s.noise.shift - 1 } ∧
      (∃ e ∈ t.sched.pending, e.kind = .generate ∧ e.reg = s.sched.nextReg) ∧
      t.seq = s.seq ∧ t.audio = s.audio ∧ t.rb = s.rb ∧ t.rs = s.rs ∧ t.pull = s.pull ∧
      t.fifos = s.fifos ∧ t.program = s.program ∧ t.turn = s.turn ∧ t.params = s.params ∧
      t.out = s.out ++ [(t.sched.now, .trace 0x8000)]

/-- R201 (that `enabled` is not tested is the spec's decision D17): a `GENERATE` after the length has
expired mutes the channel; the LFSR, the skip count and everything else stay, but for the scheduler's
state, the trace and the model's counter of draws. -/
def Obligations.GenerateMutesExpiredChannel : Prop :=
  ∀ s : State, (∃ e ∈ s.sched.pending, e.kind = .generate) →
    s.noise.lengthEnable = true → s.seq.length = 0 →
    ∃ t, exec .evGenerate s = .next t ∧
      t.noise = { s.noise with enabled := false, sample := 0 } ∧
      t.seq = s.seq ∧ t.audio = s.audio ∧ t.rb = s.rb ∧ t.rs = s.rs ∧ t.pull = s.pull ∧
      t.fifos = s.fifos ∧ t.program = s.program ∧ t.turn = s.turn ∧ t.params = s.params ∧
      t.out = s.out ++ [(t.sched.now, .trace 0x8000)]

/-- R73: after every `GENERATE`, a channel whose DAC is off has sample 0. -/
def Obligations.GenerateSilencesDisabledDac : Prop :=
  ∀ s t : State, exec .evGenerate s = .next t → t.noise.dacEnable = false → t.noise.sample = 0

/-- R219 (derived in the spec): the zero state never leaves zero, and the channel gives the constant
`-8 × current_volume`. -/
def Obligations.ZeroLfsrStaysZero : Prop :=
  ∀ s : State, (∃ e ∈ s.sched.pending, e.kind = .generate) →
    s.noise.lfsr = 0 → s.noise.dacEnable = true → s.noise.lengthEnable = false →
    ∃ t, exec .evGenerate s = .next t ∧ t.noise.lfsr = 0 ∧
      t.noise.sample = -8 * (s.seq.env.currentVolume.toNat : Int)

/-- R208, R220 with the spec's masks (D7), 15-bit mode: from every nonzero state the state first
recurs after 32767 steps. -/
def Obligations.LongLfsrPeriod : Prop :=
  ∀ x : BitVec 15, x ≠ 0 →
    lfsrSkip 0 32767 x = x ∧ ∀ k, 0 < k → k < 32767 → lfsrSkip 0 k x ≠ x

/-- R208, R220 with the spec's masks (D7), 7-bit mode: from every nonzero state within bits 6:0 the
state first recurs after 127 steps. -/
def Obligations.ShortLfsrPeriod : Prop :=
  ∀ x : BitVec 15, x ≠ 0 → x.toNat < 128 →
    lfsrSkip 1 127 x = x ∧ ∀ k, 0 < k → k < 127 → lfsrSkip 1 k x ≠ x

/-- R221 (derived in the spec): in 7-bit mode every state lies within bits 6:0 after eight steps, and
some nonzero state falls to 0. -/
def Obligations.ShortModeForgetsHighBits : Prop :=
  (∀ (x : BitVec 15) (n : Nat), 8 ≤ n → (lfsrSkip 1 n x).toNat < 128) ∧
  (lfsrStep 1 0x0143).2 = 0x00C1 ∧ (lfsrStep 1 0x00C1).2 = 0

/-! ### The Sequencer -/

/-- R250 (the spec's decision D13): one length clock. -/
def Obligations.LengthClockCountsDown : Prop :=
  ∀ s : State,
    exec .evLengthClock s =
      .next
        { s with
          seq :=
            { s.seq with
              length := if s.noise.lengthEnable then s.seq.length - 1 else s.seq.length } }

/-- R255 (the spec's decision D14): one envelope clock, in every case of its activity, divider,
timer, direction and volume. Nothing but the envelope changes. -/
def Obligations.EnvelopeClockStepsVolume : Prop :=
  ∀ s : State, ∃ e : Envelope,
    exec .evEnvelopeClock s = .next { s with seq := { s.seq with env := e } } ∧
    let o := s.seq.env
    if o.active = false ∨ o.divider = 0 then e = o
    else if 2 ≤ o.timer.toNat then e = { o with timer := BitVec.ofNat 3 (o.timer.toNat - 1) }
    else if o.direction = 1 then
      if o.currentVolume.toNat < 15 then
        e = { o with
              timer := o.divider, currentVolume := BitVec.ofNat 4 (o.currentVolume.toNat + 1) }
      else e = { o with timer := o.divider, active := false }
    else
      if 0 < o.currentVolume.toNat then
        e = { o with
              timer := o.divider, currentVolume := BitVec.ofNat 4 (o.currentVolume.toNat - 1) }
      else e = { o with timer := o.divider, active := false }

/-- R258 (the schedule is the spec's decision D12; the trace words of the clocks are the model's, log
entry 15): a frame-sequencer step clocks the length on even steps and the envelope on step 7, moves
on, and changes nothing else but the schedule and the trace. -/
def Obligations.FrameSequencerClocks : Prop :=
  ∀ s : State, (∃ e ∈ s.sched.pending, e.kind = .seq) →
    ∃ t, exec .evSeq s = .next t ∧
      t.seq.fsStep.toNat = (s.seq.fsStep.toNat + 1) % 8 ∧
      t.seq.length =
        (if s.seq.fsStep.toNat % 2 = 0 ∧ s.noise.lengthEnable = true then s.seq.length - 1
         else s.seq.length) ∧
      (s.seq.fsStep.toNat = 7 →
        exec .evEnvelopeClock s = .next { s with seq := { s.seq with env := t.seq.env } }) ∧
      (s.seq.fsStep.toNat ≠ 7 → t.seq.env = s.seq.env) ∧
      t.noise = s.noise ∧ t.audio = s.audio ∧ t.rb = s.rb ∧ t.rs = s.rs ∧ t.pull = s.pull ∧
      t.fifos = s.fifos ∧ t.program = s.program ∧ t.turn = s.turn ∧ t.params = s.params

/-! ### The host pull -/

/-- R310, R312 (the threshold's unit is the spec's decision D28): with at least twice the requested
frames queued, the oldest frames are read, converted and given out, and nothing else changes. Here and
in the next two no other pull is running; `RunningPullEndsFirst` is about one that is. -/
def Obligations.PullReadsOldestFrames : Prop :=
  ∀ (n : Nat) (s : State), s.audio.deviceOk = true → n % 4 = 0 → s.pull = none →
    2 * (n / 4) ≤ s.rb.length →
    exec (.hostPull n) s =
      .next
        { s with
          rb := s.rb.drop (n / 4)
          out := s.out ++
            [(s.sched.now, .hostBuffer ((s.rb.take (n / 4)).flatMap frameBytes))] }

/-- R313 (with R310): an underrun repeats the queued frames from the oldest on, and consumes none. -/
def Obligations.PullRepeatsOnUnderrun : Prop :=
  ∀ (n : Nat) (s : State), s.audio.deviceOk = true → n % 4 = 0 → s.pull = none →
    0 < s.rb.length → s.rb.length < 2 * (n / 4) →
    ∃ fs : List Frame,
      exec (.hostPull n) s =
        .next { s with out := s.out ++ [(s.sched.now, .hostBuffer (fs.flatMap frameBytes))] } ∧
      fs.length = n / 4 ∧ ∀ k, k < n / 4 → fs[k]? = s.rb[k % s.rb.length]?

/-- R314 (the spec's decision D28): an underrun of an empty buffer gives `n` bytes of silence. -/
def Obligations.PullOfEmptyRingIsSilent : Prop :=
  ∀ (n : Nat) (s : State), s.audio.deviceOk = true → n % 4 = 0 → s.pull = none → s.rb = [] →
    exec (.hostPull n) s =
      .next { s with out := s.out ++ [(s.sched.now, .hostBuffer (List.replicate n 0))] }

/-- R311, R319, R333 (the spec's decisions D30, D40; their order is the model's, log entry 13): where a
pull is refused. -/
def Obligations.PullRefusals : Prop :=
  ∀ (n : Nat) (s : State),
    (s.audio.deviceOk = false → exec (.hostPull n) s = .refused .noDevice) ∧
    (s.audio.deviceOk = true → n % 4 ≠ 0 → exec (.hostPull n) s = .refused .hostBufferLength)

/-- R316 (full scale, rounding and clamp are the spec's decision D29): `Conv` is the nearest integer
to `v * 32767`, halves away from zero, clamped to 16 bits. -/
def Obligations.ConversionRoundsAndSaturates : Prop :=
  ∀ v : Rat, ∃ y : Int,
    |(y : Rat) - v * 32767| ≤ 1 / 2 ∧
    (|(y : Rat) - v * 32767| = 1 / 2 → |v * 32767| < |(y : Rat)|) ∧
    conv v = max (-32768) (min 32767 y)

/-- R101, R317 (the byte order is the spec's decision D30): a frame is four bytes, the left sample and
then the right one, each least significant byte first in two's complement. -/
def Obligations.FrameBytesLittleEndian : Prop :=
  ∀ f : Frame, ∃ a b c d : Byte, frameBytes f = [a, b, c, d] ∧
    ((a.toNat + 256 * b.toNat : Nat) : Int) = conv f.left % 65536 ∧
    ((c.toNat + 256 * d.toNat : Nat) : Int) = conv f.right % 65536

/-! ### Reset -/

/-- R70, R360 (values the source leaves open are the spec's decisions D12, D16, D19, D20, D36): what a
reset leaves, from any state whose running pull, if there is one, can end (R95). Where `Open` succeeds is
`ResetReportsDeviceStatus`. -/
def Obligations.ResetLeavesResetValues : Prop :=
  ∀ s : State, s.pullInContract → ∃ t, exec .reset s = .next t ∧
    t.noise =
      { lfsr := 0, width := 0, ratio := 0, shift := 0, dacEnable := false, enabled := false,
        lengthEnable := false, sample := 0, skipCount := 0 } ∧
    t.seq.length = 0 ∧
    t.seq.env =
      { initialVolume := 0, direction := 0, divider := 0, currentVolume := 0, active := false,
        timer := 0 } ∧
    (s.params.seqSchedule = .fs512 → t.seq.fsStep = 0) ∧
    t.audio =
      { latch := ⟨0, 0⟩, resolution := 0, level := 0x100, resolutionOld := 0,
        deviceOk := t.audio.deviceOk } ∧
    t.sched.now = s.sched.now ∧
    t.sched.pending =
      [⟨.tick, s.sched.now + 512, s.sched.nextReg⟩,
       ⟨.generate, s.sched.now + 14680064, s.sched.nextReg + 1⟩] ++
      (if s.params.seqSchedule = .fs512 then
        [⟨.seq, s.sched.now + 32768, s.sched.nextReg + 2⟩] else []) ∧
    t.rb = [] ∧ t.rs.inRate = 32768 ∧ t.rs.outRate = s.params.hostRate ∧ t.pull = none ∧
    t.fifos = s.fifos ∧ t.program = s.program ∧ t.turn = s.turn ∧ t.params = s.params

/-- R331 (the spec's decision D31): the last output of a reset is its status, and the only one where no
pull was running (`RunningPullEndsFirst` gives that pull's output); the status is `ok` exactly where the
device is open after it, and that is the result of `Open` where one is fixed. -/
def Obligations.ResetReportsDeviceStatus : Prop :=
  ∀ s t : State, exec .reset s = .next t →
    (∃ o,
      t.out = s.out ++ o ++
        [(s.sched.now, .resetStatus (if t.audio.deviceOk then .ok else .audioDeviceUnavailable))] ∧
      (s.pull = none → o = [])) ∧
    ∀ b, s.params.openResult = some b → t.audio.deviceOk = b

/-- R364 (derived in the spec; for the resampler's open history it is what log entry 9 asks of the
parameter): a second reset leaves what the first left, but for the registration numbers, which are
higher, the device flag, and the model's own outputs and draws. -/
def Obligations.SecondResetChangesOnlyNumbers : Prop :=
  ∀ s t u : State, exec .reset s = .next t → exec .reset t = .next u →
    u.noise = t.noise ∧ u.seq = t.seq ∧ u.audio = { t.audio with deviceOk := u.audio.deviceOk } ∧
    u.rb = t.rb ∧ u.rs = t.rs ∧ u.pull = t.pull ∧ u.fifos = t.fifos ∧ u.program = t.program ∧
    u.turn = t.turn ∧ u.params = t.params ∧
    u.sched.now = t.sched.now ∧
    u.sched.nextReg = t.sched.nextReg + t.sched.pending.length ∧
    u.sched.pending =
      t.sched.pending.map (fun e => { e with reg := e.reg + t.sched.pending.length })

/-- R70: `State.reset` is what a reset at cycle 0 leaves, with the model's choices of log entries 7 and
11 (the device open, registration numbers from 0) and of log entry 9 (the resampler's history after a
reset is a function of the resampler's state before it, so it is that of `State.reset` where the
resampler before was the model's first one). -/
def Obligations.InitialStateIsAReset : Prop :=
  ∀ s t : State, s.sched.now = 0 → s.sched.nextReg = 0 → s.params = State.reset.params →
    exec .reset s = .next t →
    t.noise = State.reset.noise ∧ t.seq = State.reset.seq ∧ t.sched = State.reset.sched ∧
    t.rb = State.reset.rb ∧ t.pull = State.reset.pull ∧
    t.rs.inRate = State.reset.rs.inRate ∧ t.rs.outRate = State.reset.rs.outRate ∧
    (s.rs = ⟨Config.firstInRate, Config.firstOutRate, Config.firstHistory⟩ →
      t.rs = State.reset.rs) ∧
    { t.audio with deviceOk := true } = State.reset.audio

/-! ### Whole-machine rules about single steps -/

/-- R35 (with R172): the channel becomes enabled only by a trigger with the DAC on, and stops being
enabled only by an offset-1 write that turns the DAC off, a `GENERATE` after the length has expired,
or a reset. -/
def Obligations.EnabledFlagWriters : Prop :=
  ∀ (i : Instr) (s t : State), exec i s = .next t →
    (s.noise.enabled = false → t.noise.enabled = true →
      s.noise.dacEnable = true ∧ ∃ d : Byte, i = .noiseWr5 d ∧ 128 ≤ d.toNat) ∧
    (s.noise.enabled = true → t.noise.enabled = false →
      (∃ d : Byte, i = .noiseWr1 d ∧ d.toNat < 8) ∨
      (i = .evGenerate ∧ s.noise.lengthEnable = true ∧ s.seq.length = 0) ∨ i = .reset)

/-- R31, R37, R38, R40, R43, R45, R46, R47, R55, R59: each piece of the block's state is written only by the
transactions and events that its rule names, and a running pull only by those in which HOST has steps;
of `N.enabled`, `EnabledFlagWriters` says more. -/
def Obligations.StateIsWrittenOnlyByItsWriters : Prop :=
  ∀ (i : Instr) (s t : State), exec i s = .next t →
    (t.noise.sample ≠ s.noise.sample → i = .evGenerate ∨ i = .reset) ∧
    (t.noise.skipCount ≠ s.noise.skipCount → i = .evGenerate ∨ i = .reset) ∧
    (t.noise.lfsr ≠ s.noise.lfsr →
      i = .evGenerate ∨ i = .reset ∨ ∃ d : Byte, i = .noiseWr5 d ∧ 128 ≤ d.toNat) ∧
    (t.noise.ratio ≠ s.noise.ratio ∨ t.noise.width ≠ s.noise.width ∨
        t.noise.shift ≠ s.noise.shift → i = .reset ∨ ∃ d, i = .noiseWr4 d) ∧
    (t.noise.dacEnable ≠ s.noise.dacEnable → i = .reset ∨ ∃ d, i = .noiseWr1 d) ∧
    (t.noise.enabled ≠ s.noise.enabled →
      i = .evGenerate ∨ i = .reset ∨ ∃ d, i = .noiseWr1 d ∨ i = .noiseWr5 d) ∧
    (t.noise.lengthEnable ≠ s.noise.lengthEnable → i = .reset ∨ ∃ d, i = .noiseWr5 d) ∧
    (t.seq.length ≠ s.seq.length →
      i = .evSeq ∨ i = .evLengthClock ∨ i = .reset ∨ ∃ d, i = .noiseWr0 d ∨ i = .noiseWr5 d) ∧
    (t.seq.env ≠ s.seq.env →
      i = .evSeq ∨ i = .evEnvelopeClock ∨ i = .reset ∨ ∃ d, i = .noiseWr1 d ∨ i = .noiseWr5 d) ∧
    (t.seq.fsStep ≠ s.seq.fsStep → i = .evSeq ∨ i = .reset) ∧
    (t.audio.latch ≠ s.audio.latch → i = .reset ∨ ∃ f n, i = .latchFifo f n) ∧
    (t.audio.resolution ≠ s.audio.resolution ∨ t.audio.level ≠ s.audio.level →
      i = .reset ∨ ∃ l r, i = .biasWr l r) ∧
    (t.audio.resolutionOld ≠ s.audio.resolutionOld → i = .evTick ∨ i = .reset) ∧
    (t.audio.deviceOk ≠ s.audio.deviceOk → i = .reset) ∧
    (t.rb ≠ s.rb → i = .evTick ∨ i = .reset ∨ ∃ n, i = .hostPull n) ∧
    (t.pull ≠ s.pull → i = .evTick ∨ i = .reset ∨ ∃ n, i = .hostPull n) ∧
    (t.rs ≠ s.rs → i = .evTick ∨ i = .reset) ∧
    (t.sched ≠ s.sched → i = .evGenerate ∨ i = .evTick ∨ i = .evSeq ∨ i = .reset) ∧
    (t.fifos ≠ s.fifos → ∃ f n, i = .latchFifo f n)

/-! ### The scheduler and the agents -/

/-- R216, R258, R288, R340, R341 (the scheduler's semantics are the spec's decision D3): firing an
event of any kind takes its entry out of the pending set and registers exactly one, at its old
deadline plus its period, however late it fired. -/
def Obligations.EventsRearmAtDeadlinePlusPeriod : Prop :=
  ∀ (s : State) (k : EventKind) (e : Event), s.pullInContract → earliest (s.eventsOf k) = some e →
    ∃ t, exec k.instr s = .next t ∧
      t.sched.nextReg = s.sched.nextReg + 1 ∧
      s.sched.now ≤ t.sched.now ∧ e.deadline ≤ t.sched.now ∧
      let mixer := 512 / 2 ^ s.audio.resolution.toNat
      let period :=
        match k with
        | .tick => mixer
        | .seq => 32768
        | .generate =>
          if s.noise.lengthEnable = true ∧ s.seq.length = 0 then 14680064
          else max (interval s.noise.ratio s.noise.shift) mixer
      t.sched.pending =
        s.sched.pending.erase e ++ [⟨k, e.deadline + period, s.sched.nextReg⟩]

/-- R217, R343, R391 (the spec's decision D3): lateness reaches nothing but the clock. From two states
that differ only in `E.now`, in the cycles their outputs are stamped with and in how late events fire,
an event leads to two states that differ only in these. -/
def Obligations.LatenessReachesOnlyTheClock : Prop :=
  ∀ (k : EventKind) (s₁ s₂ t₁ : State) (l : Lateness),
    s₁.offClock = { s₂ with params := { s₂.params with lateness := l } }.offClock →
    exec k.instr s₁ = .next t₁ →
    ∃ t₂, exec k.instr s₂ = .next t₂ ∧
      t₁.offClock = { t₂ with params := { t₂.params with lateness := l } }.offClock

/-- R345, R259: where the step is neither HOST's nor the external frame sequencer's and no event is due by
its cycle, the first listed transaction is issued: the step runs the instruction its word decodes to, at
that cycle, with its pair gone. Where the step is the external frame sequencer's, it runs one of the two
clocks at a cycle from `E.now` on that passes no listed pair's, and the program stays; which clock and
when are the model's draws (log entry 29). Around either the step draws who moves next (log entries 12
and 29). -/
def Obligations.StepRunsTheListedInstruction : Prop :=
  (∀ (s : State) (t : Nat) (w : TxWord) (rest : List (Nat × TxWord)) (i : Instr),
    s.hostMoves = false → s.clockMoves = false →
    s.program = (t, w) :: rest → s.sched.now ≤ t → (∀ e ∈ s.sched.pending, t < e.deadline) →
    decode w = .ok i → mayIssue s.params.seqSchedule i = true →
    ∃ who : Turn,
      step s =
        exec i
          { s with
            sched := { s.sched with now := t }, program := rest, draws := s.draws + 1, turn := who }) ∧
  ∀ s : State, s.hostMoves = false → s.clockMoves = true →
    ∃ (i : Instr) (c : Nat) (who : Turn), (i = .evLengthClock ∨ i = .evEnvelopeClock) ∧
      s.params.seqSchedule = .external ∧ s.sched.now ≤ c ∧
      (∀ t w rest, s.program = (t, w) :: rest → c ≤ t) ∧
      step s =
        exec i { s with sched := { s.sched with now := c }, draws := s.draws + 1, turn := who }

/-- R342, R344, R345 (the spec's decisions D4, D5): where the step is neither HOST's nor the external
frame sequencer's, with nothing listed or with an event due before the first listed pair, it fires an
event with the smallest deadline, under `REG_FIFO` the one registered first. -/
def Obligations.StepFiresTheEarliestEvent : Prop :=
  ∀ s : State, s.hostMoves = false → s.clockMoves = false → s.sched.pending ≠ [] →
    (s.program = [] ∨
      ∃ t w rest, s.program = (t, w) :: rest ∧ s.sched.now ≤ t ∧
        ∃ e ∈ s.sched.pending, e.deadline < t) →
    ∃ e ∈ s.sched.pending,
      (∀ e' ∈ s.sched.pending, e.deadline ≤ e'.deadline) ∧
      (s.params.tieOrder = .regFifo →
        ∀ e' ∈ s.sched.pending, e'.deadline = e.deadline → e.reg ≤ e'.reg) ∧
      ∃ who : Turn, step s = exec e.kind.instr { s with draws := s.draws + 1, turn := who }

/-- R345 (the spec's decision D5): where the step is neither HOST's nor the external frame sequencer's, at
a transaction's own cycle `EVENTS_FIRST` fires the event, and the open `CPU_SYNC` does that or issues
the word. -/
def Obligations.EventAtTransactionCycle : Prop :=
  ∀ (s : State) (t : Nat) (w : TxWord) (rest : List (Nat × TxWord)),
    s.hostMoves = false → s.clockMoves = false → s.program = (t, w) :: rest → s.sched.now ≤ t →
    (∃ e ∈ s.sched.pending, e.deadline = t) → (∀ e ∈ s.sched.pending, t ≤ e.deadline) →
    (∃ e ∈ s.sched.pending, e.deadline = t ∧
      ∃ who : Turn, step s = exec e.kind.instr { s with draws := s.draws + 1, turn := who }) ∨
    (s.params.cpuSync = .eitherOrder ∧ step s = issueWord t w s)

/-- R122, R123, R333, R345 (the spec's decisions D12, D32, D40): the listed words a step that is
neither HOST's nor the external frame sequencer's refuses, and by which name. Where two of the rules
hold of one word, which name it is, and that `ProgramOrder` comes before any event fires, is the model's
choice (log entry 13): a word such as `0x8001`, on an event's port with a bit below, is refused as
`ReservedBits`. -/
def Obligations.ListedWordsRefused : Prop :=
  ∀ (s : State) (t : Nat) (w : TxWord) (rest : List (Nat × TxWord)),
    s.hostMoves = false → s.clockMoves = false → s.program = (t, w) :: rest →
    (t < s.sched.now → step s = .refused .programOrder) ∧
    (s.sched.now ≤ t → (∀ e ∈ s.sched.pending, t < e.deadline) →
      (decode w = .error .reservedPort → step s = .refused .reservedPort) ∧
      (decode w = .error .reservedBits → step s = .refused .reservedBits) ∧
      (w = 0x8000 ∨ w = 0x9000 ∨ w = 0xA000 → step s = .refused .internalEvent) ∧
      (w = 0xB000 ∨ w = 0xC000 → s.params.seqSchedule = .fs512 →
        step s = .refused .internalEvent))

/-- R343, R345: `E.now` never goes back, and never passes the first listed pair's cycle. (A step of HOST,
which moves no clock, may come before a pair that is already late and will be refused.) -/
def Obligations.TimeNeverRunsBack : Prop :=
  ∀ s t : State, step s = .next t →
    s.sched.now ≤ t.sched.now ∧
    ∀ c w rest, s.program = (c, w) :: rest → (s.hostMoves = false ∨ s.sched.now ≤ c) →
      t.sched.now ≤ c

/-- R334 (derived in the spec): in a state of the invariant with nothing listed there is always a step,
whoever moves. -/
def Obligations.EmulationNeverStops : Prop :=
  ∀ s : State, Invariant s → s.program = [] → ∃ t, step s = .next t

/-- R8, R63, R356: no step changes a parameter or takes back an output, and the listed program only
loses its first pair. -/
def Obligations.StepKeepsParametersAndOutputs : Prop :=
  ∀ s t : State, step s = .next t →
    t.params = s.params ∧ s.out <+: t.out ∧
    (t.program = s.program ∨ t.program = s.program.tail) ∧ s.draws < t.draws

/-- R95, R93, R94, R98, R333: a call outside the ring buffer's contract is refused, and no step makes one
where the running pull is within the contract, which every step keeps (`StepKeepsInvariant`). Where the
call comes next it refuses HOST's step, and where more frames are still to be read than are queued it
refuses the pull or the reset before which the running pull would have to end. A Tick in which HOST makes
such a call is refused so (log entry 28), and every other one completes. -/
def Obligations.RingContractIsKept : Prop :=
  (rbRead [] = .error .ringContract) ∧
  (∀ (rb : List Frame) (i : Nat), rb.length ≤ i → rbPeek rb i = .error .ringContract) ∧
  (∀ (s : State) (p : Pull), s.hostMoves = true → s.pull = some p →
    (p.path = .reading ∧ s.rb = []) ∨ (p.path = .peeking ∧ s.rb.length ≤ p.index) →
    step s = .refused .ringContract) ∧
  (∀ (s : State) (p : Pull), s.pull = some p → p.path = .reading → s.rb.length ≤ p.more →
    exec .reset s = .refused .ringContract ∧
    ∀ n, s.audio.deviceOk = true → n % 4 = 0 → exec (.hostPull n) s = .refused .ringContract) ∧
  (∀ s : State, (∃ e ∈ s.sched.pending, e.kind = .tick) →
    (∃ t, exec .evTick s = .next t) ∨ exec .evTick s = .refused .ringContract) ∧
  ∀ s : State, s.pullInContract → step s ≠ .refused .ringContract

/-- R72 (derived in the spec), with the ranges of R37, R55, R59, R95, R281, R290 and R319: every step keeps
the invariant, from every state that meets it. -/
def Obligations.StepKeepsInvariant : Prop :=
  ∀ s t : State, Invariant s → step s = .next t → Invariant t

/-- R72: the state after reset meets the invariant. -/
def Obligations.ResetStateMeetsInvariant : Prop := Invariant State.reset

/-! ### The HOST agent's own steps -/

/-- R319, R356, R345 (log entries 12, 23): a pull callback that is running ends before a listed pull starts, since
HOST is one thread, and before a reset's `Close()` returns: it gives the output its snapshot fixed, and
then the transaction does what it does with no pull running. -/
def Obligations.RunningPullEndsFirst : Prop :=
  ∀ (s : State) (p : Pull), s.pull = some p → p.inContract s.rb →
    let u : State :=
      { s with
        pull := none
        rb := match p.path with
          | .reading => s.rb.drop (p.more + 1)
          | .peeking => s.rb
        out := s.out ++ [(s.sched.now, .hostBuffer ((p.output s.rb).flatMap frameBytes))] }
    exec .reset s = exec .reset u ∧
    ∀ n, exec (.hostPull n) s = exec (.hostPull n) u

/-- R351, R352, R98, R310 (when HOST moves is the model's draw, log entry 12, and how many frames it asks
for is too, log entry 27): a step of HOST is one atomic operation. It takes the one snapshot that starts a pull
and selects its path, or it makes the running pull's next frame, and after the last frame writes the
host's buffer. It waits for nothing, and changes nothing but the ring buffer it reads from, the pull,
the outputs and the model's draws. -/
def Obligations.HostStepIsOneRingOperation : Prop :=
  ∀ s : State, s.hostMoves = true → s.pullInContract →
    ∃ t, step s = .next t ∧
      t = { s with rb := t.rb, pull := t.pull, out := t.out, draws := t.draws, turn := t.turn } ∧
      match s.pull with
      | none => ∃ k, t.rb = s.rb ∧
          if 0 < k ∧ 2 * k ≤ s.rb.length then
            t.out = s.out ∧
            t.pull =
              some { path := .reading, more := k - 1, avail := s.rb.length, index := 0, made := [] }
          else if 0 < k ∧ 0 < s.rb.length then
            t.out = s.out ∧
            t.pull =
              some { path := .peeking, more := k - 1, avail := s.rb.length, index := 0, made := [] }
          else
            t.out = s.out ++ [(s.sched.now, .hostBuffer (List.replicate (4 * k) 0))] ∧ t.pull = none
      | some p => ∃ f,
          (match p.path with
          | .reading => s.rb = f :: t.rb
          | .peeking => t.rb = s.rb ∧ s.rb[p.index]? = some f) ∧
          if p.more = 0 then
            t.out =
              s.out ++ [(s.sched.now, .hostBuffer ((p.made ++ [f]).flatMap frameBytes))] ∧
            t.pull = none
          else
            t.out = s.out ∧
            t.pull =
              some
                { p with
                  more := p.more - 1
                  index := if p.avail ≤ p.index + 1 then 0 else p.index + 1
                  made := p.made ++ [f] }

/-- R318, R352, R98 (the spec's decision D44): whatever steps are taken while a pull is running, a Tick's
writes among them, its output is the one that it would have given at once. After any step it is still
running with the same output to come, and has given nothing; or the first host buffer given is that
output. -/
def Obligations.PullOutputIsFixedAtItsSnapshot : Prop :=
  ∀ (s t : State) (p : Pull), s.pull = some p → p.inContract s.rb → step s = .next t →
    (∃ p' o, t.pull = some p' ∧ p'.inContract t.rb ∧ p'.output t.rb = p.output s.rb ∧
      t.out = s.out ++ o ∧ ∀ x ∈ o, ∀ b, x.2 ≠ .hostBuffer b) ∨
    ∃ o c o', (∀ x ∈ o, ∀ b, x.2 ≠ .hostBuffer b) ∧
      t.out = s.out ++ o ++ (c, .hostBuffer ((p.output s.rb).flatMap frameBytes)) :: o'
end

