-- ==== Sys2Proof/Laws/Decode.lean ====
section
/-! SUPPORT. The fields of a transaction word as arithmetic on its number, for proofs about `decode`
(spec 30_encoding.md R120, R121). -/

namespace Sys2Proof

theorem portField_toNat (w : TxWord) : (portField w).toNat = w.toNat / 4096 := by
  have := w.isLt
  simp [portField, Nat.shiftRight_eq_div_pow]
  omega

theorem lowField_toNat (w : TxWord) : (lowField w).toNat = w.toNat % 4096 := by
  simp [lowField, Nat.shiftRight_eq_div_pow]

theorem dataField_toNat (w : TxWord) : (dataField w).toNat = w.toNat % 256 := by
  unfold dataField
  rw [BitVec.extractLsb'_toNat]
  simp

theorem offsetField_toNat (w : TxWord) : (offsetField w).toNat = w.toNat / 256 % 8 := by
  simp [offsetField, Nat.shiftRight_eq_div_pow]

theorem levelField_toNat (w : TxWord) : (levelField w).toNat = w.toNat / 4 % 1024 := by
  simp [levelField, Nat.shiftRight_eq_div_pow]

theorem resolutionField_toNat (w : TxWord) : (resolutionField w).toNat = w.toNat % 4 := by
  simp [resolutionField, Nat.shiftRight_eq_div_pow]

theorem bit11_eq_zero (w : TxWord) : w.extractLsb' 11 1 = 0#1 ↔ w.toNat % 4096 < 2048 := by
  rw [BitVec.toNat_eq, BitVec.extractLsb'_toNat, Nat.shiftRight_eq_div_pow]
  simp only [BitVec.toNat_ofNat]
  omega

theorem bits11to9_eq_zero (w : TxWord) : w.extractLsb' 9 3 = 0#3 ↔ w.toNat % 4096 < 512 := by
  rw [BitVec.toNat_eq, BitVec.extractLsb'_toNat, Nat.shiftRight_eq_div_pow]
  simp only [BitVec.toNat_ofNat]
  omega

theorem fifoField_eq (w : TxWord) :
    fifoField w = if w.toNat / 256 % 2 = 0 then .fifo0 else .fifo1 := by
  unfold fifoField
  have : w.extractLsb' 8 1 = 0#1 ↔ w.toNat / 256 % 2 = 0 := by
    rw [BitVec.toNat_eq, BitVec.extractLsb'_toNat, Nat.shiftRight_eq_div_pow]
    simp
  simp [this]

/-- Appending bits is arithmetic. -/
theorem append_toNat {m n : Nat} (a : BitVec m) (b : BitVec n) :
    (a ++ b).toNat = a.toNat * 2 ^ n + b.toNat := by
  rw [BitVec.toNat_append, Nat.shiftLeft_eq, Nat.mul_comm, Nat.two_pow_add_eq_or_of_lt b.isLt]

theorem readWord_toNat (o : BitVec 3) : (readWord o).toNat = 256 * o.toNat := by
  simp only [readWord, append_toNat, BitVec.toNat_ofNat]
  omega

theorem writeWord_toNat (o : BitVec 3) (d : Byte) :
    (writeWord o d).toNat = 4096 + 256 * o.toNat + d.toNat := by
  simp only [writeWord, append_toNat, BitVec.toNat_ofNat]
  omega

theorem biasWord_toNat (l : BitVec 10) (r : BitVec 2) :
    (encode (.biasWr l r)).toNat = 8192 + 4 * l.toNat + r.toNat := by
  simp only [encode, append_toNat, BitVec.toNat_ofNat]
  omega

theorem latchWord_toNat (i : FifoId) (t : Nat) :
    (encode (.latchFifo i t)).toNat = 12288 + 256 * (fifoBit i).toNat + t % 256 := by
  simp only [encode, append_toNat, BitVec.toNat_ofNat]
  omega

theorem pullWord_toNat (n : Nat) : (encode (.hostPull n)).toNat = 16384 + n % 4096 := by
  simp only [encode, append_toNat, BitVec.toNat_ofNat]
  omega

theorem portWord_toNat (p : BitVec 4) : (portWord p).toNat = 4096 * p.toNat := by
  simp only [portWord, append_toNat, BitVec.toNat_ofNat]
  omega

end Sys2Proof
end

