-- ==== Sys2Proof/Laws/State.lean ====
section
/-! SUPPORT. The named updates of `State`, field by field: each leaves every field unchanged that it
does not name, and gives the fields it names the value its definition says. -/

namespace Sys2Proof.Machine

open Sys2Proof

/-! ### `State.emit` -/

@[simp] theorem State.emit_noise (s : State) (o : Output) : (s.emit o).noise = s.noise := rfl
@[simp] theorem State.emit_seq (s : State) (o : Output) : (s.emit o).seq = s.seq := rfl
@[simp] theorem State.emit_audio (s : State) (o : Output) : (s.emit o).audio = s.audio := rfl
@[simp] theorem State.emit_sched (s : State) (o : Output) : (s.emit o).sched = s.sched := rfl
@[simp] theorem State.emit_rb (s : State) (o : Output) : (s.emit o).rb = s.rb := rfl
@[simp] theorem State.emit_rs (s : State) (o : Output) : (s.emit o).rs = s.rs := rfl
@[simp] theorem State.emit_fifos (s : State) (o : Output) : (s.emit o).fifos = s.fifos := rfl
@[simp] theorem State.emit_program (s : State) (o : Output) : (s.emit o).program = s.program := rfl
@[simp] theorem State.emit_draws (s : State) (o : Output) : (s.emit o).draws = s.draws := rfl
@[simp] theorem State.emit_params (s : State) (o : Output) : (s.emit o).params = s.params := rfl
@[simp] theorem State.emit_pull (s : State) (o : Output) : (s.emit o).pull = s.pull := rfl
@[simp] theorem State.emit_turn (s : State) (o : Output) : (s.emit o).turn = s.turn := rfl

/-! ### `State.drawn` -/

@[simp] theorem State.drawn_noise (s : State) : s.drawn.noise = s.noise := rfl
@[simp] theorem State.drawn_seq (s : State) : s.drawn.seq = s.seq := rfl
@[simp] theorem State.drawn_audio (s : State) : s.drawn.audio = s.audio := rfl
@[simp] theorem State.drawn_sched (s : State) : s.drawn.sched = s.sched := rfl
@[simp] theorem State.drawn_rb (s : State) : s.drawn.rb = s.rb := rfl
@[simp] theorem State.drawn_rs (s : State) : s.drawn.rs = s.rs := rfl
@[simp] theorem State.drawn_fifos (s : State) : s.drawn.fifos = s.fifos := rfl
@[simp] theorem State.drawn_program (s : State) : s.drawn.program = s.program := rfl
@[simp] theorem State.drawn_out (s : State) : s.drawn.out = s.out := rfl
@[simp] theorem State.drawn_params (s : State) : s.drawn.params = s.params := rfl
@[simp] theorem State.drawn_pull (s : State) : s.drawn.pull = s.pull := rfl
@[simp] theorem State.drawn_turn (s : State) : s.drawn.turn = s.turn := rfl

/-! ### `State.advance` -/

@[simp] theorem State.advance_noise (s : State) : s.advance.noise = s.noise := rfl
@[simp] theorem State.advance_seq (s : State) : s.advance.seq = s.seq := rfl
@[simp] theorem State.advance_audio (s : State) : s.advance.audio = s.audio := rfl
@[simp] theorem State.advance_sched (s : State) : s.advance.sched = s.sched := rfl
@[simp] theorem State.advance_rb (s : State) : s.advance.rb = s.rb := rfl
@[simp] theorem State.advance_rs (s : State) : s.advance.rs = s.rs := rfl
@[simp] theorem State.advance_pull (s : State) : s.advance.pull = s.pull := rfl
@[simp] theorem State.advance_fifos (s : State) : s.advance.fifos = s.fifos := rfl
@[simp] theorem State.advance_program (s : State) : s.advance.program = s.program := rfl
@[simp] theorem State.advance_out (s : State) : s.advance.out = s.out := rfl
@[simp] theorem State.advance_params (s : State) : s.advance.params = s.params := rfl
@[simp] theorem State.advance_draws (s : State) : s.advance.draws = s.draws + 1 := rfl
@[simp] theorem State.advance_turn (s : State) : s.advance.turn = Turn.draw s.draws := rfl

/-! ### `State.schedule` -/

@[simp] theorem State.schedule_noise (s : State) (k : EventKind) (d : Int) : (s.schedule k d).noise = s.noise := rfl
@[simp] theorem State.schedule_seq (s : State) (k : EventKind) (d : Int) : (s.schedule k d).seq = s.seq := rfl
@[simp] theorem State.schedule_audio (s : State) (k : EventKind) (d : Int) : (s.schedule k d).audio = s.audio := rfl
@[simp] theorem State.schedule_rb (s : State) (k : EventKind) (d : Int) : (s.schedule k d).rb = s.rb := rfl
@[simp] theorem State.schedule_rs (s : State) (k : EventKind) (d : Int) : (s.schedule k d).rs = s.rs := rfl
@[simp] theorem State.schedule_fifos (s : State) (k : EventKind) (d : Int) : (s.schedule k d).fifos = s.fifos := rfl
@[simp] theorem State.schedule_program (s : State) (k : EventKind) (d : Int) : (s.schedule k d).program = s.program := rfl
@[simp] theorem State.schedule_out (s : State) (k : EventKind) (d : Int) : (s.schedule k d).out = s.out := rfl
@[simp] theorem State.schedule_draws (s : State) (k : EventKind) (d : Int) : (s.schedule k d).draws = s.draws := rfl
@[simp] theorem State.schedule_params (s : State) (k : EventKind) (d : Int) : (s.schedule k d).params = s.params := rfl
@[simp] theorem State.schedule_pull (s : State) (k : EventKind) (d : Int) : (s.schedule k d).pull = s.pull := rfl
@[simp] theorem State.schedule_turn (s : State) (k : EventKind) (d : Int) : (s.schedule k d).turn = s.turn := rfl

/-! ### `State.cancelEvents` -/

@[simp] theorem State.cancelEvents_noise (s : State) : s.cancelEvents.noise = s.noise := rfl
@[simp] theorem State.cancelEvents_seq (s : State) : s.cancelEvents.seq = s.seq := rfl
@[simp] theorem State.cancelEvents_audio (s : State) : s.cancelEvents.audio = s.audio := rfl
@[simp] theorem State.cancelEvents_rb (s : State) : s.cancelEvents.rb = s.rb := rfl
@[simp] theorem State.cancelEvents_rs (s : State) : s.cancelEvents.rs = s.rs := rfl
@[simp] theorem State.cancelEvents_fifos (s : State) : s.cancelEvents.fifos = s.fifos := rfl
@[simp] theorem State.cancelEvents_program (s : State) : s.cancelEvents.program = s.program := rfl
@[simp] theorem State.cancelEvents_out (s : State) : s.cancelEvents.out = s.out := rfl
@[simp] theorem State.cancelEvents_draws (s : State) : s.cancelEvents.draws = s.draws := rfl
@[simp] theorem State.cancelEvents_params (s : State) : s.cancelEvents.params = s.params := rfl
@[simp] theorem State.cancelEvents_pull (s : State) : s.cancelEvents.pull = s.pull := rfl
@[simp] theorem State.cancelEvents_turn (s : State) : s.cancelEvents.turn = s.turn := rfl

/-! ### `State.beginFiring` -/

@[simp] theorem State.beginFiring_noise (s : State) (e : Event) : (s.beginFiring e).noise = s.noise := rfl
@[simp] theorem State.beginFiring_seq (s : State) (e : Event) : (s.beginFiring e).seq = s.seq := rfl
@[simp] theorem State.beginFiring_audio (s : State) (e : Event) : (s.beginFiring e).audio = s.audio := rfl
@[simp] theorem State.beginFiring_rb (s : State) (e : Event) : (s.beginFiring e).rb = s.rb := rfl
@[simp] theorem State.beginFiring_rs (s : State) (e : Event) : (s.beginFiring e).rs = s.rs := rfl
@[simp] theorem State.beginFiring_fifos (s : State) (e : Event) : (s.beginFiring e).fifos = s.fifos := rfl
@[simp] theorem State.beginFiring_program (s : State) (e : Event) : (s.beginFiring e).program = s.program := rfl
@[simp] theorem State.beginFiring_params (s : State) (e : Event) : (s.beginFiring e).params = s.params := rfl
@[simp] theorem State.beginFiring_pull (s : State) (e : Event) : (s.beginFiring e).pull = s.pull := rfl
@[simp] theorem State.beginFiring_turn (s : State) (e : Event) : (s.beginFiring e).turn = s.turn := rfl

/-! ### `State.takeArrivals` -/

@[simp] theorem State.takeArrivals_noise (s : State) (i : FifoId) : (s.takeArrivals i).noise = s.noise := rfl
@[simp] theorem State.takeArrivals_seq (s : State) (i : FifoId) : (s.takeArrivals i).seq = s.seq := rfl
@[simp] theorem State.takeArrivals_audio (s : State) (i : FifoId) : (s.takeArrivals i).audio = s.audio := rfl
@[simp] theorem State.takeArrivals_sched (s : State) (i : FifoId) : (s.takeArrivals i).sched = s.sched := rfl
@[simp] theorem State.takeArrivals_rb (s : State) (i : FifoId) : (s.takeArrivals i).rb = s.rb := rfl
@[simp] theorem State.takeArrivals_rs (s : State) (i : FifoId) : (s.takeArrivals i).rs = s.rs := rfl
@[simp] theorem State.takeArrivals_program (s : State) (i : FifoId) : (s.takeArrivals i).program = s.program := rfl
@[simp] theorem State.takeArrivals_out (s : State) (i : FifoId) : (s.takeArrivals i).out = s.out := rfl
@[simp] theorem State.takeArrivals_params (s : State) (i : FifoId) : (s.takeArrivals i).params = s.params := rfl
@[simp] theorem State.takeArrivals_pull (s : State) (i : FifoId) : (s.takeArrivals i).pull = s.pull := rfl
@[simp] theorem State.takeArrivals_turn (s : State) (i : FifoId) : (s.takeArrivals i).turn = s.turn := rfl

/-! ### `State.readWindow` -/

@[simp] theorem State.readWindow_noise (s : State) (o : BitVec 3) : (s.readWindow o).noise = s.noise := rfl
@[simp] theorem State.readWindow_seq (s : State) (o : BitVec 3) : (s.readWindow o).seq = s.seq := rfl
@[simp] theorem State.readWindow_audio (s : State) (o : BitVec 3) : (s.readWindow o).audio = s.audio := rfl
@[simp] theorem State.readWindow_sched (s : State) (o : BitVec 3) : (s.readWindow o).sched = s.sched := rfl
@[simp] theorem State.readWindow_rb (s : State) (o : BitVec 3) : (s.readWindow o).rb = s.rb := rfl
@[simp] theorem State.readWindow_rs (s : State) (o : BitVec 3) : (s.readWindow o).rs = s.rs := rfl
@[simp] theorem State.readWindow_fifos (s : State) (o : BitVec 3) : (s.readWindow o).fifos = s.fifos := rfl
@[simp] theorem State.readWindow_program (s : State) (o : BitVec 3) : (s.readWindow o).program = s.program := rfl
@[simp] theorem State.readWindow_draws (s : State) (o : BitVec 3) : (s.readWindow o).draws = s.draws := rfl
@[simp] theorem State.readWindow_params (s : State) (o : BitVec 3) : (s.readWindow o).params = s.params := rfl
@[simp] theorem State.readWindow_pull (s : State) (o : BitVec 3) : (s.readWindow o).pull = s.pull := rfl
@[simp] theorem State.readWindow_turn (s : State) (o : BitVec 3) : (s.readWindow o).turn = s.turn := rfl

/-! ### `State.lengthClock` -/

@[simp] theorem State.lengthClock_noise (s : State) : s.lengthClock.noise = s.noise := rfl
@[simp] theorem State.lengthClock_audio (s : State) : s.lengthClock.audio = s.audio := rfl
@[simp] theorem State.lengthClock_sched (s : State) : s.lengthClock.sched = s.sched := rfl
@[simp] theorem State.lengthClock_rb (s : State) : s.lengthClock.rb = s.rb := rfl
@[simp] theorem State.lengthClock_rs (s : State) : s.lengthClock.rs = s.rs := rfl
@[simp] theorem State.lengthClock_fifos (s : State) : s.lengthClock.fifos = s.fifos := rfl
@[simp] theorem State.lengthClock_program (s : State) : s.lengthClock.program = s.program := rfl
@[simp] theorem State.lengthClock_out (s : State) : s.lengthClock.out = s.out := rfl
@[simp] theorem State.lengthClock_draws (s : State) : s.lengthClock.draws = s.draws := rfl
@[simp] theorem State.lengthClock_params (s : State) : s.lengthClock.params = s.params := rfl
@[simp] theorem State.lengthClock_pull (s : State) : s.lengthClock.pull = s.pull := rfl
@[simp] theorem State.lengthClock_turn (s : State) : s.lengthClock.turn = s.turn := rfl

/-! ### `State.envelopeClock` -/

@[simp] theorem State.envelopeClock_noise (s : State) : s.envelopeClock.noise = s.noise := rfl
@[simp] theorem State.envelopeClock_audio (s : State) : s.envelopeClock.audio = s.audio := rfl
@[simp] theorem State.envelopeClock_sched (s : State) : s.envelopeClock.sched = s.sched := rfl
@[simp] theorem State.envelopeClock_rb (s : State) : s.envelopeClock.rb = s.rb := rfl
@[simp] theorem State.envelopeClock_rs (s : State) : s.envelopeClock.rs = s.rs := rfl
@[simp] theorem State.envelopeClock_fifos (s : State) : s.envelopeClock.fifos = s.fifos := rfl
@[simp] theorem State.envelopeClock_program (s : State) : s.envelopeClock.program = s.program := rfl
@[simp] theorem State.envelopeClock_out (s : State) : s.envelopeClock.out = s.out := rfl
@[simp] theorem State.envelopeClock_draws (s : State) : s.envelopeClock.draws = s.draws := rfl
@[simp] theorem State.envelopeClock_params (s : State) : s.envelopeClock.params = s.params := rfl
@[simp] theorem State.envelopeClock_pull (s : State) : s.envelopeClock.pull = s.pull := rfl
@[simp] theorem State.envelopeClock_turn (s : State) : s.envelopeClock.turn = s.turn := rfl

/-! ### `State.restart` -/

@[simp] theorem State.restart_noise (s : State) : s.restart.noise = s.noise := rfl
@[simp] theorem State.restart_audio (s : State) : s.restart.audio = s.audio := rfl
@[simp] theorem State.restart_sched (s : State) : s.restart.sched = s.sched := rfl
@[simp] theorem State.restart_rb (s : State) : s.restart.rb = s.rb := rfl
@[simp] theorem State.restart_rs (s : State) : s.restart.rs = s.rs := rfl
@[simp] theorem State.restart_fifos (s : State) : s.restart.fifos = s.fifos := rfl
@[simp] theorem State.restart_program (s : State) : s.restart.program = s.program := rfl
@[simp] theorem State.restart_out (s : State) : s.restart.out = s.out := rfl
@[simp] theorem State.restart_draws (s : State) : s.restart.draws = s.draws := rfl
@[simp] theorem State.restart_params (s : State) : s.restart.params = s.params := rfl
@[simp] theorem State.restart_pull (s : State) : s.restart.pull = s.pull := rfl
@[simp] theorem State.restart_turn (s : State) : s.restart.turn = s.turn := rfl

/-! ### `State.trigger` -/

@[simp] theorem State.trigger_audio (s : State) : s.trigger.audio = s.audio := rfl
@[simp] theorem State.trigger_sched (s : State) : s.trigger.sched = s.sched := rfl
@[simp] theorem State.trigger_rb (s : State) : s.trigger.rb = s.rb := rfl
@[simp] theorem State.trigger_rs (s : State) : s.trigger.rs = s.rs := rfl
@[simp] theorem State.trigger_fifos (s : State) : s.trigger.fifos = s.fifos := rfl
@[simp] theorem State.trigger_program (s : State) : s.trigger.program = s.program := rfl
@[simp] theorem State.trigger_out (s : State) : s.trigger.out = s.out := rfl
@[simp] theorem State.trigger_draws (s : State) : s.trigger.draws = s.draws := rfl
@[simp] theorem State.trigger_params (s : State) : s.trigger.params = s.params := rfl
@[simp] theorem State.trigger_pull (s : State) : s.trigger.pull = s.pull := rfl
@[simp] theorem State.trigger_turn (s : State) : s.trigger.turn = s.turn := rfl

/-! ### `State.advanceStep` -/

@[simp] theorem State.advanceStep_noise (s : State) : s.advanceStep.noise = s.noise := rfl
@[simp] theorem State.advanceStep_audio (s : State) : s.advanceStep.audio = s.audio := rfl
@[simp] theorem State.advanceStep_sched (s : State) : s.advanceStep.sched = s.sched := rfl
@[simp] theorem State.advanceStep_rb (s : State) : s.advanceStep.rb = s.rb := rfl
@[simp] theorem State.advanceStep_rs (s : State) : s.advanceStep.rs = s.rs := rfl
@[simp] theorem State.advanceStep_fifos (s : State) : s.advanceStep.fifos = s.fifos := rfl
@[simp] theorem State.advanceStep_program (s : State) : s.advanceStep.program = s.program := rfl
@[simp] theorem State.advanceStep_out (s : State) : s.advanceStep.out = s.out := rfl
@[simp] theorem State.advanceStep_draws (s : State) : s.advanceStep.draws = s.draws := rfl
@[simp] theorem State.advanceStep_params (s : State) : s.advanceStep.params = s.params := rfl
@[simp] theorem State.advanceStep_pull (s : State) : s.advanceStep.pull = s.pull := rfl
@[simp] theorem State.advanceStep_turn (s : State) : s.advanceStep.turn = s.turn := rfl

/-! ### `State.resetAudio` -/

@[simp] theorem State.resetAudio_noise (s : State) : s.resetAudio.noise = s.noise := rfl
@[simp] theorem State.resetAudio_seq (s : State) : s.resetAudio.seq = s.seq := rfl
@[simp] theorem State.resetAudio_rb (s : State) : s.resetAudio.rb = s.rb := rfl
@[simp] theorem State.resetAudio_rs (s : State) : s.resetAudio.rs = s.rs := rfl
@[simp] theorem State.resetAudio_fifos (s : State) : s.resetAudio.fifos = s.fifos := rfl
@[simp] theorem State.resetAudio_program (s : State) : s.resetAudio.program = s.program := rfl
@[simp] theorem State.resetAudio_out (s : State) : s.resetAudio.out = s.out := rfl
@[simp] theorem State.resetAudio_draws (s : State) : s.resetAudio.draws = s.draws := rfl
@[simp] theorem State.resetAudio_params (s : State) : s.resetAudio.params = s.params := rfl
@[simp] theorem State.resetAudio_pull (s : State) : s.resetAudio.pull = s.pull := rfl
@[simp] theorem State.resetAudio_turn (s : State) : s.resetAudio.turn = s.turn := rfl

/-! ### `State.resetSequencer` -/

@[simp] theorem State.resetSequencer_noise (s : State) : s.resetSequencer.noise = s.noise := rfl
@[simp] theorem State.resetSequencer_audio (s : State) : s.resetSequencer.audio = s.audio := rfl
@[simp] theorem State.resetSequencer_sched (s : State) : s.resetSequencer.sched = s.sched := rfl
@[simp] theorem State.resetSequencer_rb (s : State) : s.resetSequencer.rb = s.rb := rfl
@[simp] theorem State.resetSequencer_rs (s : State) : s.resetSequencer.rs = s.rs := rfl
@[simp] theorem State.resetSequencer_fifos (s : State) : s.resetSequencer.fifos = s.fifos := rfl
@[simp] theorem State.resetSequencer_program (s : State) : s.resetSequencer.program = s.program := rfl
@[simp] theorem State.resetSequencer_out (s : State) : s.resetSequencer.out = s.out := rfl
@[simp] theorem State.resetSequencer_draws (s : State) : s.resetSequencer.draws = s.draws := rfl
@[simp] theorem State.resetSequencer_params (s : State) : s.resetSequencer.params = s.params := rfl
@[simp] theorem State.resetSequencer_pull (s : State) : s.resetSequencer.pull = s.pull := rfl
@[simp] theorem State.resetSequencer_turn (s : State) : s.resetSequencer.turn = s.turn := rfl

/-! ### `State.resetNoise` -/

@[simp] theorem State.resetNoise_audio (s : State) : s.resetNoise.audio = s.audio := rfl
@[simp] theorem State.resetNoise_rb (s : State) : s.resetNoise.rb = s.rb := rfl
@[simp] theorem State.resetNoise_rs (s : State) : s.resetNoise.rs = s.rs := rfl
@[simp] theorem State.resetNoise_fifos (s : State) : s.resetNoise.fifos = s.fifos := rfl
@[simp] theorem State.resetNoise_program (s : State) : s.resetNoise.program = s.program := rfl
@[simp] theorem State.resetNoise_out (s : State) : s.resetNoise.out = s.out := rfl
@[simp] theorem State.resetNoise_draws (s : State) : s.resetNoise.draws = s.draws := rfl
@[simp] theorem State.resetNoise_params (s : State) : s.resetNoise.params = s.params := rfl
@[simp] theorem State.resetNoise_pull (s : State) : s.resetNoise.pull = s.pull := rfl
@[simp] theorem State.resetNoise_turn (s : State) : s.resetNoise.turn = s.turn := rfl

/-! ### `State.atIssue` -/

@[simp] theorem State.atIssue_noise (s : State) (t : Nat) : (s.atIssue t).noise = s.noise := rfl
@[simp] theorem State.atIssue_seq (s : State) (t : Nat) : (s.atIssue t).seq = s.seq := rfl
@[simp] theorem State.atIssue_audio (s : State) (t : Nat) : (s.atIssue t).audio = s.audio := rfl
@[simp] theorem State.atIssue_rb (s : State) (t : Nat) : (s.atIssue t).rb = s.rb := rfl
@[simp] theorem State.atIssue_rs (s : State) (t : Nat) : (s.atIssue t).rs = s.rs := rfl
@[simp] theorem State.atIssue_fifos (s : State) (t : Nat) : (s.atIssue t).fifos = s.fifos := rfl
@[simp] theorem State.atIssue_out (s : State) (t : Nat) : (s.atIssue t).out = s.out := rfl
@[simp] theorem State.atIssue_params (s : State) (t : Nat) : (s.atIssue t).params = s.params := rfl
@[simp] theorem State.atIssue_pull (s : State) (t : Nat) : (s.atIssue t).pull = s.pull := rfl

/-! ### `State.atClock` -/

@[simp] theorem State.atClock_noise (s : State) : s.atClock.noise = s.noise := rfl
@[simp] theorem State.atClock_seq (s : State) : s.atClock.seq = s.seq := rfl
@[simp] theorem State.atClock_audio (s : State) : s.atClock.audio = s.audio := rfl
@[simp] theorem State.atClock_rb (s : State) : s.atClock.rb = s.rb := rfl
@[simp] theorem State.atClock_rs (s : State) : s.atClock.rs = s.rs := rfl
@[simp] theorem State.atClock_pull (s : State) : s.atClock.pull = s.pull := rfl
@[simp] theorem State.atClock_fifos (s : State) : s.atClock.fifos = s.fifos := rfl
@[simp] theorem State.atClock_program (s : State) : s.atClock.program = s.program := rfl
@[simp] theorem State.atClock_out (s : State) : s.atClock.out = s.out := rfl
@[simp] theorem State.atClock_params (s : State) : s.atClock.params = s.params := rfl
@[simp] theorem State.atClock_now (s : State) : s.atClock.sched.now = s.clockCycle := rfl
@[simp] theorem State.atClock_draws (s : State) : s.atClock.draws = s.draws + 1 := rfl

/-! ### `State.retune` -/

@[simp] theorem State.retune_noise (s : State) : s.retune.noise = s.noise := by
  unfold State.retune; split <;> rfl
@[simp] theorem State.retune_seq (s : State) : s.retune.seq = s.seq := by
  unfold State.retune; split <;> rfl
@[simp] theorem State.retune_sched (s : State) : s.retune.sched = s.sched := by
  unfold State.retune; split <;> rfl
@[simp] theorem State.retune_rb (s : State) : s.retune.rb = s.rb := by
  unfold State.retune; split <;> rfl
@[simp] theorem State.retune_fifos (s : State) : s.retune.fifos = s.fifos := by
  unfold State.retune; split <;> rfl
@[simp] theorem State.retune_program (s : State) : s.retune.program = s.program := by
  unfold State.retune; split <;> rfl
@[simp] theorem State.retune_out (s : State) : s.retune.out = s.out := by
  unfold State.retune; split <;> rfl
@[simp] theorem State.retune_draws (s : State) : s.retune.draws = s.draws := by
  unfold State.retune; split <;> rfl
@[simp] theorem State.retune_params (s : State) : s.retune.params = s.params := by
  unfold State.retune; split <;> rfl
@[simp] theorem State.retune_pull (s : State) : s.retune.pull = s.pull := by
  unfold State.retune; split <;> rfl
@[simp] theorem State.retune_turn (s : State) : s.retune.turn = s.turn := by
  unfold State.retune; split <;> rfl

/-! ### `State.seqLength` -/

@[simp] theorem State.seqLength_noise (s : State) : s.seqLength.noise = s.noise := by
  unfold State.seqLength; split <;> rfl
@[simp] theorem State.seqLength_audio (s : State) : s.seqLength.audio = s.audio := by
  unfold State.seqLength; split <;> rfl
@[simp] theorem State.seqLength_sched (s : State) : s.seqLength.sched = s.sched := by
  unfold State.seqLength; split <;> rfl
@[simp] theorem State.seqLength_rb (s : State) : s.seqLength.rb = s.rb := by
  unfold State.seqLength; split <;> rfl
@[simp] theorem State.seqLength_rs (s : State) : s.seqLength.rs = s.rs := by
  unfold State.seqLength; split <;> rfl
@[simp] theorem State.seqLength_fifos (s : State) : s.seqLength.fifos = s.fifos := by
  unfold State.seqLength; split <;> rfl
@[simp] theorem State.seqLength_program (s : State) : s.seqLength.program = s.program := by
  unfold State.seqLength; split <;> rfl
@[simp] theorem State.seqLength_draws (s : State) : s.seqLength.draws = s.draws := by
  unfold State.seqLength; split <;> rfl
@[simp] theorem State.seqLength_params (s : State) : s.seqLength.params = s.params := by
  unfold State.seqLength; split <;> rfl
@[simp] theorem State.seqLength_pull (s : State) : s.seqLength.pull = s.pull := by
  unfold State.seqLength; split <;> rfl
@[simp] theorem State.seqLength_turn (s : State) : s.seqLength.turn = s.turn := by
  unfold State.seqLength; split <;> rfl

/-! ### `State.seqEnvelope` -/

@[simp] theorem State.seqEnvelope_noise (s : State) : s.seqEnvelope.noise = s.noise := by
  unfold State.seqEnvelope; split <;> rfl
@[simp] theorem State.seqEnvelope_audio (s : State) : s.seqEnvelope.audio = s.audio := by
  unfold State.seqEnvelope; split <;> rfl
@[simp] theorem State.seqEnvelope_sched (s : State) : s.seqEnvelope.sched = s.sched := by
  unfold State.seqEnvelope; split <;> rfl
@[simp] theorem State.seqEnvelope_rb (s : State) : s.seqEnvelope.rb = s.rb := by
  unfold State.seqEnvelope; split <;> rfl
@[simp] theorem State.seqEnvelope_rs (s : State) : s.seqEnvelope.rs = s.rs := by
  unfold State.seqEnvelope; split <;> rfl
@[simp] theorem State.seqEnvelope_fifos (s : State) : s.seqEnvelope.fifos = s.fifos := by
  unfold State.seqEnvelope; split <;> rfl
@[simp] theorem State.seqEnvelope_program (s : State) : s.seqEnvelope.program = s.program := by
  unfold State.seqEnvelope; split <;> rfl
@[simp] theorem State.seqEnvelope_draws (s : State) : s.seqEnvelope.draws = s.draws := by
  unfold State.seqEnvelope; split <;> rfl
@[simp] theorem State.seqEnvelope_params (s : State) : s.seqEnvelope.params = s.params := by
  unfold State.seqEnvelope; split <;> rfl
@[simp] theorem State.seqEnvelope_pull (s : State) : s.seqEnvelope.pull = s.pull := by
  unfold State.seqEnvelope; split <;> rfl
@[simp] theorem State.seqEnvelope_turn (s : State) : s.seqEnvelope.turn = s.turn := by
  unfold State.seqEnvelope; split <;> rfl

/-! ### `State.latchOldest` -/

@[simp] theorem State.latchOldest_noise (s : State) (i : FifoId) : (s.latchOldest i).noise = s.noise := by
  unfold State.latchOldest; split <;> rfl
@[simp] theorem State.latchOldest_seq (s : State) (i : FifoId) : (s.latchOldest i).seq = s.seq := by
  unfold State.latchOldest; split <;> rfl
@[simp] theorem State.latchOldest_sched (s : State) (i : FifoId) : (s.latchOldest i).sched = s.sched := by
  unfold State.latchOldest; split <;> rfl
@[simp] theorem State.latchOldest_rb (s : State) (i : FifoId) : (s.latchOldest i).rb = s.rb := by
  unfold State.latchOldest; split <;> rfl
@[simp] theorem State.latchOldest_rs (s : State) (i : FifoId) : (s.latchOldest i).rs = s.rs := by
  unfold State.latchOldest; split <;> rfl
@[simp] theorem State.latchOldest_program (s : State) (i : FifoId) : (s.latchOldest i).program = s.program := by
  unfold State.latchOldest; split <;> rfl
@[simp] theorem State.latchOldest_out (s : State) (i : FifoId) : (s.latchOldest i).out = s.out := by
  unfold State.latchOldest; split <;> rfl
@[simp] theorem State.latchOldest_params (s : State) (i : FifoId) : (s.latchOldest i).params = s.params := by
  unfold State.latchOldest; split <;> rfl
@[simp] theorem State.latchOldest_pull (s : State) (i : FifoId) : (s.latchOldest i).pull = s.pull := by
  unfold State.latchOldest; split <;> rfl
@[simp] theorem State.latchOldest_turn (s : State) (i : FifoId) : (s.latchOldest i).turn = s.turn := by
  unfold State.latchOldest; split <;> rfl

/-! ### `State.resetFrameSequencer` -/

@[simp] theorem State.resetFrameSequencer_noise (s : State) : s.resetFrameSequencer.noise = s.noise := by
  unfold State.resetFrameSequencer; split <;> rfl
@[simp] theorem State.resetFrameSequencer_audio (s : State) : s.resetFrameSequencer.audio = s.audio := by
  unfold State.resetFrameSequencer; split <;> rfl
@[simp] theorem State.resetFrameSequencer_rb (s : State) : s.resetFrameSequencer.rb = s.rb := by
  unfold State.resetFrameSequencer; split <;> rfl
@[simp] theorem State.resetFrameSequencer_rs (s : State) : s.resetFrameSequencer.rs = s.rs := by
  unfold State.resetFrameSequencer; split <;> rfl
@[simp] theorem State.resetFrameSequencer_fifos (s : State) : s.resetFrameSequencer.fifos = s.fifos := by
  unfold State.resetFrameSequencer; split <;> rfl
@[simp] theorem State.resetFrameSequencer_program (s : State) : s.resetFrameSequencer.program = s.program := by
  unfold State.resetFrameSequencer; split <;> rfl
@[simp] theorem State.resetFrameSequencer_out (s : State) : s.resetFrameSequencer.out = s.out := by
  unfold State.resetFrameSequencer; split <;> rfl
@[simp] theorem State.resetFrameSequencer_draws (s : State) : s.resetFrameSequencer.draws = s.draws := by
  unfold State.resetFrameSequencer; split <;> rfl
@[simp] theorem State.resetFrameSequencer_params (s : State) : s.resetFrameSequencer.params = s.params := by
  unfold State.resetFrameSequencer; split <;> rfl
@[simp] theorem State.resetFrameSequencer_pull (s : State) : s.resetFrameSequencer.pull = s.pull := by
  unfold State.resetFrameSequencer; split <;> rfl
@[simp] theorem State.resetFrameSequencer_turn (s : State) : s.resetFrameSequencer.turn = s.turn := by
  unfold State.resetFrameSequencer; split <;> rfl

/-! ### `State.drainOne` and `drain` -/

@[simp] theorem State.drainOne_noise (s : State) (i : FifoId) : (s.drainOne i).noise = s.noise := by
  unfold State.drainOne; split <;> simp
@[simp] theorem drain_noise (i : FifoId) (t : Nat) (s : State) : (drain i t s).noise = s.noise := by
  induction t generalizing s with
  | zero => rfl
  | succ t ih => simp [drain, ih]
@[simp] theorem State.drainOne_seq (s : State) (i : FifoId) : (s.drainOne i).seq = s.seq := by
  unfold State.drainOne; split <;> simp
@[simp] theorem drain_seq (i : FifoId) (t : Nat) (s : State) : (drain i t s).seq = s.seq := by
  induction t generalizing s with
  | zero => rfl
  | succ t ih => simp [drain, ih]
@[simp] theorem State.drainOne_sched (s : State) (i : FifoId) : (s.drainOne i).sched = s.sched := by
  unfold State.drainOne; split <;> simp
@[simp] theorem drain_sched (i : FifoId) (t : Nat) (s : State) : (drain i t s).sched = s.sched := by
  induction t generalizing s with
  | zero => rfl
  | succ t ih => simp [drain, ih]
@[simp] theorem State.drainOne_rb (s : State) (i : FifoId) : (s.drainOne i).rb = s.rb := by
  unfold State.drainOne; split <;> simp
@[simp] theorem drain_rb (i : FifoId) (t : Nat) (s : State) : (drain i t s).rb = s.rb := by
  induction t generalizing s with
  | zero => rfl
  | succ t ih => simp [drain, ih]
@[simp] theorem State.drainOne_rs (s : State) (i : FifoId) : (s.drainOne i).rs = s.rs := by
  unfold State.drainOne; split <;> simp
@[simp] theorem drain_rs (i : FifoId) (t : Nat) (s : State) : (drain i t s).rs = s.rs := by
  induction t generalizing s with
  | zero => rfl
  | succ t ih => simp [drain, ih]
@[simp] theorem State.drainOne_program (s : State) (i : FifoId) : (s.drainOne i).program = s.program := by
  unfold State.drainOne; split <;> simp
@[simp] theorem drain_program (i : FifoId) (t : Nat) (s : State) : (drain i t s).program = s.program := by
  induction t generalizing s with
  | zero => rfl
  | succ t ih => simp [drain, ih]
@[simp] theorem State.drainOne_params (s : State) (i : FifoId) : (s.drainOne i).params = s.params := by
  unfold State.drainOne; split <;> simp
@[simp] theorem State.drainOne_pull (s : State) (i : FifoId) : (s.drainOne i).pull = s.pull := by
  unfold State.drainOne; split <;> simp
@[simp] theorem State.drainOne_turn (s : State) (i : FifoId) : (s.drainOne i).turn = s.turn := by
  unfold State.drainOne; split <;> simp
@[simp] theorem drain_params (i : FifoId) (t : Nat) (s : State) : (drain i t s).params = s.params := by
  induction t generalizing s with
  | zero => rfl
  | succ t ih => simp [drain, ih]
@[simp] theorem drain_pull (i : FifoId) (t : Nat) (s : State) : (drain i t s).pull = s.pull := by
  induction t generalizing s with
  | zero => rfl
  | succ t ih => simp [drain, ih]
@[simp] theorem drain_turn (i : FifoId) (t : Nat) (s : State) : (drain i t s).turn = s.turn := by
  induction t generalizing s with
  | zero => rfl
  | succ t ih => simp [drain, ih]

/-! ### `State.reopen` -/

@[simp] theorem State.reopen_noise (s : State) : s.reopen.noise = s.noise := rfl
@[simp] theorem State.reopen_seq (s : State) : s.reopen.seq = s.seq := rfl
@[simp] theorem State.reopen_sched (s : State) : s.reopen.sched = s.sched := rfl
@[simp] theorem State.reopen_pull (s : State) : s.reopen.pull = s.pull := rfl
@[simp] theorem State.reopen_fifos (s : State) : s.reopen.fifos = s.fifos := rfl
@[simp] theorem State.reopen_program (s : State) : s.reopen.program = s.program := rfl
@[simp] theorem State.reopen_out (s : State) : s.reopen.out = s.out := rfl
@[simp] theorem State.reopen_turn (s : State) : s.reopen.turn = s.turn := rfl
@[simp] theorem State.reopen_params (s : State) : s.reopen.params = s.params := rfl
@[simp] theorem State.reopen_rb (s : State) : s.reopen.rb = [] := rfl
@[simp] theorem State.reopen_rs (s : State) :
    s.reopen.rs = s.rs.atReset (generationRate 0) s.params.hostRate := rfl
@[simp] theorem State.reopen_draws (s : State) : s.reopen.draws = s.draws + 1 := rfl

/-! ### `State.giveStatus` -/

@[simp] theorem State.giveStatus_noise (s : State) : s.giveStatus.noise = s.noise := rfl
@[simp] theorem State.giveStatus_seq (s : State) : s.giveStatus.seq = s.seq := rfl
@[simp] theorem State.giveStatus_audio (s : State) : s.giveStatus.audio = s.audio := rfl
@[simp] theorem State.giveStatus_sched (s : State) : s.giveStatus.sched = s.sched := rfl
@[simp] theorem State.giveStatus_rb (s : State) : s.giveStatus.rb = s.rb := rfl
@[simp] theorem State.giveStatus_rs (s : State) : s.giveStatus.rs = s.rs := rfl
@[simp] theorem State.giveStatus_pull (s : State) : s.giveStatus.pull = s.pull := rfl
@[simp] theorem State.giveStatus_fifos (s : State) : s.giveStatus.fifos = s.fifos := rfl
@[simp] theorem State.giveStatus_program (s : State) : s.giveStatus.program = s.program := rfl
@[simp] theorem State.giveStatus_draws (s : State) : s.giveStatus.draws = s.draws := rfl
@[simp] theorem State.giveStatus_turn (s : State) : s.giveStatus.turn = s.turn := rfl
@[simp] theorem State.giveStatus_params (s : State) : s.giveStatus.params = s.params := rfl
@[simp] theorem State.giveStatus_out (s : State) :
    s.giveStatus.out = s.out ++ [(s.sched.now, .resetStatus (resetStatusOf s.audio.deviceOk))] := rfl

/-! ### `State.writeFrame` -/

@[simp] theorem State.writeFrame_noise (s : State) (f : Frame) : (s.writeFrame f).noise = s.noise := rfl
@[simp] theorem State.writeFrame_seq (s : State) (f : Frame) : (s.writeFrame f).seq = s.seq := rfl
@[simp] theorem State.writeFrame_audio (s : State) (f : Frame) : (s.writeFrame f).audio = s.audio := rfl
@[simp] theorem State.writeFrame_sched (s : State) (f : Frame) : (s.writeFrame f).sched = s.sched := rfl
@[simp] theorem State.writeFrame_rs (s : State) (f : Frame) : (s.writeFrame f).rs = s.rs := rfl
@[simp] theorem State.writeFrame_pull (s : State) (f : Frame) : (s.writeFrame f).pull = s.pull := rfl
@[simp] theorem State.writeFrame_fifos (s : State) (f : Frame) : (s.writeFrame f).fifos = s.fifos := rfl
@[simp] theorem State.writeFrame_program (s : State) (f : Frame) : (s.writeFrame f).program = s.program := rfl
@[simp] theorem State.writeFrame_out (s : State) (f : Frame) : (s.writeFrame f).out = s.out := rfl
@[simp] theorem State.writeFrame_draws (s : State) (f : Frame) : (s.writeFrame f).draws = s.draws := rfl
@[simp] theorem State.writeFrame_turn (s : State) (f : Frame) : (s.writeFrame f).turn = s.turn := rfl
@[simp] theorem State.writeFrame_params (s : State) (f : Frame) : (s.writeFrame f).params = s.params := rfl
@[simp] theorem State.writeFrame_rb (s : State) (f : Frame) :
    (s.writeFrame f).rb = rbWrite s.params.ringCapacity s.rb f := rfl

/-! ### `State.writeHostBuffer` -/

@[simp] theorem State.writeHostBuffer_noise (s : State) (fs : List Frame) : (s.writeHostBuffer fs).noise = s.noise := rfl
@[simp] theorem State.writeHostBuffer_seq (s : State) (fs : List Frame) : (s.writeHostBuffer fs).seq = s.seq := rfl
@[simp] theorem State.writeHostBuffer_audio (s : State) (fs : List Frame) : (s.writeHostBuffer fs).audio = s.audio := rfl
@[simp] theorem State.writeHostBuffer_sched (s : State) (fs : List Frame) : (s.writeHostBuffer fs).sched = s.sched := rfl
@[simp] theorem State.writeHostBuffer_rb (s : State) (fs : List Frame) : (s.writeHostBuffer fs).rb = s.rb := rfl
@[simp] theorem State.writeHostBuffer_rs (s : State) (fs : List Frame) : (s.writeHostBuffer fs).rs = s.rs := rfl
@[simp] theorem State.writeHostBuffer_pull (s : State) (fs : List Frame) : (s.writeHostBuffer fs).pull = s.pull := rfl
@[simp] theorem State.writeHostBuffer_fifos (s : State) (fs : List Frame) : (s.writeHostBuffer fs).fifos = s.fifos := rfl
@[simp] theorem State.writeHostBuffer_program (s : State) (fs : List Frame) : (s.writeHostBuffer fs).program = s.program := rfl
@[simp] theorem State.writeHostBuffer_draws (s : State) (fs : List Frame) : (s.writeHostBuffer fs).draws = s.draws := rfl
@[simp] theorem State.writeHostBuffer_turn (s : State) (fs : List Frame) : (s.writeHostBuffer fs).turn = s.turn := rfl
@[simp] theorem State.writeHostBuffer_params (s : State) (fs : List Frame) : (s.writeHostBuffer fs).params = s.params := rfl
@[simp] theorem State.writeHostBuffer_out (s : State) (fs : List Frame) :
    (s.writeHostBuffer fs).out = s.out ++ [(s.sched.now, .hostBuffer (fs.flatMap frameBytes))] := rfl

/-! ### The fields an update names -/

@[simp] theorem State.emit_out (s : State) (o : Output) :
    (s.emit o).out = s.out ++ [(s.sched.now, o)] := rfl
@[simp] theorem State.drawn_draws (s : State) : s.drawn.draws = s.draws + 1 := rfl
@[simp] theorem State.schedule_now (s : State) (k : EventKind) (d : Int) :
    (s.schedule k d).sched.now = s.sched.now := rfl
@[simp] theorem State.schedule_nextReg (s : State) (k : EventKind) (d : Int) :
    (s.schedule k d).sched.nextReg = s.sched.nextReg + 1 := rfl
@[simp] theorem State.schedule_pending (s : State) (k : EventKind) (d : Int) :
    (s.schedule k d).sched.pending =
      s.sched.pending ++ [⟨k, ((s.sched.now : Int) + d).toNat, s.sched.nextReg⟩] := rfl
@[simp] theorem State.cancelEvents_pending (s : State) : s.cancelEvents.sched.pending = [] := rfl
@[simp] theorem State.cancelEvents_now (s : State) : s.cancelEvents.sched.now = s.sched.now := rfl
@[simp] theorem State.cancelEvents_nextReg (s : State) :
    s.cancelEvents.sched.nextReg = s.sched.nextReg := rfl
@[simp] theorem State.beginFiring_now (s : State) (e : Event) :
    (s.beginFiring e).sched.now = s.firingCycle e.deadline := rfl
@[simp] theorem State.beginFiring_pending (s : State) (e : Event) :
    (s.beginFiring e).sched.pending = s.sched.pending.erase e := rfl
@[simp] theorem State.beginFiring_nextReg (s : State) (e : Event) :
    (s.beginFiring e).sched.nextReg = s.sched.nextReg := rfl
@[simp] theorem State.beginFiring_out (s : State) (e : Event) :
    (s.beginFiring e).out = s.out ++ [(s.firingCycle e.deadline, .trace e.kind.traceWord)] := rfl
@[simp] theorem State.beginFiring_draws (s : State) (e : Event) :
    (s.beginFiring e).draws = s.draws + 1 := rfl
@[simp] theorem State.lengthClock_env (s : State) : s.lengthClock.seq.env = s.seq.env := rfl
@[simp] theorem State.lengthClock_fsStep (s : State) : s.lengthClock.seq.fsStep = s.seq.fsStep := rfl
@[simp] theorem State.envelopeClock_length (s : State) : s.envelopeClock.seq.length = s.seq.length := rfl
@[simp] theorem State.envelopeClock_fsStep (s : State) : s.envelopeClock.seq.fsStep = s.seq.fsStep := rfl
@[simp] theorem State.retune_latch (s : State) : s.retune.audio.latch = s.audio.latch := by
  unfold State.retune; split <;> rfl
@[simp] theorem State.retune_resolution (s : State) :
    s.retune.audio.resolution = s.audio.resolution := by
  unfold State.retune; split <;> rfl
@[simp] theorem State.retune_level (s : State) : s.retune.audio.level = s.audio.level := by
  unfold State.retune; split <;> rfl
@[simp] theorem State.retune_deviceOk (s : State) : s.retune.audio.deviceOk = s.audio.deviceOk := by
  unfold State.retune; split <;> rfl
@[simp] theorem State.retune_resolutionOld (s : State) :
    s.retune.audio.resolutionOld = s.audio.resolution := by
  unfold State.retune; split
  · rfl
  · next h => simpa using Eq.symm (Classical.not_not.mp h)

end Sys2Proof.Machine
end

