-- ==== Sys2Proof/Laws/Ops.lean ====
section
/-! SUPPORT. One lemma per shared operation that says what it can do: the per-FIFO pair, the choice of
the earliest event, the firing of an event and its re-arm, the FIFO drains, the ring buffer, the resampler,
the LFSR and the timing arithmetic. -/

namespace Sys2Proof.Machine

open Sys2Proof

/-! ### The per-FIFO pair -/

@[simp] theorem PerFifo_get_set {α : Type} (p : PerFifo α) (i : FifoId) (v : α) :
    (p.set i v).get i = v := by
  cases i <;> rfl

theorem PerFifo_get_set_of_ne {α : Type} (p : PerFifo α) {i j : FifoId} (v : α) (h : j ≠ i) :
    (p.set i v).get j = p.get j := by
  cases i <;> cases j <;> first | rfl | exact absurd rfl h

@[simp] theorem PerFifo_set_set {α : Type} (p : PerFifo α) (i : FifoId) (v w : α) :
    (p.set i v).set i w = p.set i w := by
  cases i <;> rfl

@[simp] theorem PerFifo_set_get {α : Type} (p : PerFifo α) (i : FifoId) : p.set i (p.get i) = p := by
  cases i <;> rfl

/-! ### The earliest event -/

theorem earliest_eq_none {l : List Event} : earliest l = none ↔ l = [] := by
  cases l with
  | nil => simp [earliest]
  | cons e es =>
    simp only [earliest]
    cases earliest es with
    | none => simp
    | some m => simp only; split <;> simp

theorem earliest_mem {l : List Event} {e : Event} (h : earliest l = some e) : e ∈ l := by
  induction l generalizing e with
  | nil => simp [earliest] at h
  | cons x xs ih =>
    simp only [earliest] at h
    cases hm : earliest xs with
    | none => simp_all
    | some m =>
      rw [hm] at h
      simp only at h
      split at h <;> cases h
      · exact List.mem_cons_of_mem _ (ih hm)
      · exact List.mem_cons_self

/-- No event of the list has a smaller deadline, nor the same deadline and a smaller number. -/
theorem earliest_least {l : List Event} {e : Event} (h : earliest l = some e) :
    ∀ x ∈ l, e.deadline < x.deadline ∨ (e.deadline = x.deadline ∧ e.reg ≤ x.reg) := by
  induction l generalizing e with
  | nil => simp
  | cons y ys ih =>
    intro x hx
    simp only [earliest] at h
    cases hm : earliest ys with
    | none =>
      rw [hm] at h
      cases h
      rw [earliest_eq_none] at hm
      subst hm
      simp only [List.mem_singleton] at hx
      subst hx
      omega
    | some m =>
      rw [hm] at h
      have hbest := ih hm
      by_cases hb : m.before y = true
      · simp only [hb, if_true, Option.some.injEq] at h
        subst h
        simp only [Event.before, Bool.or_eq_true, Bool.and_eq_true, decide_eq_true_eq] at hb
        rcases List.mem_cons.mp hx with rfl | hx
        · omega
        · exact hbest x hx
      · simp only [hb, if_false, Option.some.injEq, Bool.false_eq_true] at h
        subst h
        simp only [Event.before, Bool.or_eq_true, Bool.and_eq_true, decide_eq_true_eq, not_or,
          not_and] at hb
        rcases List.mem_cons.mp hx with rfl | hx
        · omega
        · have := hbest x hx
          omega

theorem earliest_eventsOf_mem {s : State} {k : EventKind} {e : Event}
    (h : earliest (s.eventsOf k) = some e) : e ∈ s.sched.pending ∧ e.kind = k := by
  simpa [State.eventsOf] using earliest_mem h

/-! ### Firing and re-arming -/

theorem firingCycle_ge (s : State) (d : Nat) : s.sched.now ≤ s.firingCycle d ∧ d ≤ s.firingCycle d := by
  unfold State.firingCycle
  split
  · omega
  · split <;> omega

theorem firingCycle_le_next (s : State) (d t : Nat) (w : TxWord) (rest : List (Nat × TxWord))
    (hp : s.program = (t, w) :: rest) (hn : s.sched.now ≤ t) (hd : d ≤ t) : s.firingCycle d ≤ t := by
  unfold State.firingCycle
  rw [hp]
  split
  · omega
  · simp only
    omega

theorem firingCycle_punctual (s : State) (d : Nat) (h : s.params.lateness = .punctual) :
    s.firingCycle d = max s.sched.now d := by
  simp [State.firingCycle, h]

/-- Everything a firing can do: the earliest event of its kind leaves the pending set and its rule
runs; it is refused where none is pending, and where its rule is. -/
theorem fireOrRefuse_eq (k : EventKind) (body : Nat → State → Except Refusal State) (s : State) :
    (earliest (s.eventsOf k) = none ∧ fireOrRefuse k body s = .refused .eventNotPending) ∨
    ∃ e, earliest (s.eventsOf k) = some e ∧
      fireOrRefuse k body s =
        answer (body (s.firingCycle e.deadline - e.deadline) (s.beginFiring e)) := by
  unfold fireOrRefuse
  cases h : earliest (s.eventsOf k) with
  | none => exact .inl ⟨rfl, rfl⟩
  | some e => exact .inr ⟨e, rfl, rfl⟩

@[simp] theorem answer_ok (t : State) : answer (.ok t) = .next t := rfl

@[simp] theorem answer_error (r : Refusal) : answer (.error r) = .refused r := rfl

theorem answer_next {x : Except Refusal State} {t : State} (h : answer x = .next t) : x = .ok t := by
  cases x with
  | error r => cases h
  | ok u => cases h; rfl

theorem fireOrRefuse_of_some {k : EventKind} {body : Nat → State → Except Refusal State} {s : State}
    {e : Event} (h : earliest (s.eventsOf k) = some e) :
    fireOrRefuse k body s =
      answer (body (s.firingCycle e.deadline - e.deadline) (s.beginFiring e)) := by
  simp [fireOrRefuse, h]

theorem fireOrRefuse_next {k : EventKind} {body : Nat → State → Except Refusal State} {s t : State}
    (h : fireOrRefuse k body s = .next t) :
    ∃ e, earliest (s.eventsOf k) = some e ∧
      body (s.firingCycle e.deadline - e.deadline) (s.beginFiring e) = .ok t := by
  rcases fireOrRefuse_eq k body s with ⟨_, h'⟩ | ⟨e, he, h'⟩
  · rw [h'] at h; cases h
  · rw [h'] at h; exact ⟨e, he, answer_next h⟩

theorem fire_of_some {k : EventKind} {body : Nat → State → State} {s : State} {e : Event}
    (h : earliest (s.eventsOf k) = some e) :
    fire k body s = .next (body (s.firingCycle e.deadline - e.deadline) (s.beginFiring e)) :=
  fireOrRefuse_of_some h

theorem fire_next {k : EventKind} {body : Nat → State → State} {s t : State}
    (h : fire k body s = .next t) :
    ∃ e, earliest (s.eventsOf k) = some e ∧
      t = body (s.firingCycle e.deadline - e.deadline) (s.beginFiring e) := by
  obtain ⟨e, he, hb⟩ := fireOrRefuse_next h
  cases hb
  exact ⟨e, he, rfl⟩

/-- Lateness cancels: `f + (period - (f - d))` is `d + period` (R340). -/
theorem rearm_deadline {f d period : Nat} (h : d ≤ f) :
    ((f : Int) + ((period : Int) - ((f - d : Nat) : Int))).toNat = d + period := by
  omega

/-! ### The direct-sound FIFOs -/

theorem latchOldest_cons {s : State} {i : FifoId} {b : Byte} {rest : List Byte}
    (h : s.fifos.get i = b :: rest) :
    s.latchOldest i =
      { s with
        audio := { s.audio with latch := s.audio.latch.set i b }
        fifos := s.fifos.set i rest } := by
  simp [State.latchOldest, h]

theorem latchOldest_nil {s : State} {i : FifoId} (h : s.fifos.get i = []) :
    s.latchOldest i =
      { s with
        audio := { s.audio with latch := s.audio.latch.set i (Config.emptyFifoByte s.draws) }
        draws := s.draws + 1 } := by
  simp [State.latchOldest, h]

@[simp] theorem latchOldest_fifo (s : State) (i : FifoId) :
    (s.latchOldest i).fifos.get i = (s.fifos.get i).tail := by
  unfold State.latchOldest
  split <;> rename_i h <;> simp [h]

@[simp] theorem drainOne_fifos (s : State) (i : FifoId) :
    (s.drainOne i).fifos = (s.latchOldest i).fifos := by
  unfold State.drainOne; split <;> rfl

@[simp] theorem drainOne_audio (s : State) (i : FifoId) :
    (s.drainOne i).audio = (s.latchOldest i).audio := by
  unfold State.drainOne; split <;> rfl

theorem drainOne_out (s : State) (i : FifoId) :
    (s.drainOne i).out =
      s.out ++
        if (s.fifos.get i).length - 1 ≤ 16 then [(s.sched.now, .dmaRequest i)] else [] := by
  unfold State.drainOne State.fifoCount lowWaterMark
  rw [latchOldest_fifo, List.length_tail]
  split <;> simp

/-- A drain loop leaves the other FIFO and its latch alone, and changes of the Audio Unit only the
latch. -/
theorem drain_other (i j : FifoId) (hj : j ≠ i) (t : Nat) (s : State) :
    (drain i t s).fifos.get j = s.fifos.get j ∧
      (drain i t s).audio.latch.get j = s.audio.latch.get j := by
  induction t generalizing s with
  | zero => exact ⟨rfl, rfl⟩
  | succ t ih =>
    simp only [drain]
    obtain ⟨h1, h2⟩ := ih (s.drainOne i)
    rw [h1, h2, drainOne_fifos, drainOne_audio]
    unfold State.latchOldest
    split <;> simp [PerFifo_get_set_of_ne _ _ hj]

theorem drain_fifo (i : FifoId) (t : Nat) (s : State) :
    (drain i t s).fifos.get i = (s.fifos.get i).drop t := by
  induction t generalizing s with
  | zero => rfl
  | succ t ih =>
    simp only [drain, ih, drainOne_fifos, latchOldest_fifo]
    cases s.fifos.get i <;> simp

/-! ### The ring buffer and the resampler -/

theorem rbWrite_of_room {c : Nat} {rb : List Frame} (f : Frame) (h : rb.length < c) :
    rbWrite c rb f = rb ++ [f] := by
  simp [rbWrite, h]

theorem rbWrite_of_full {c : Nat} {rb : List Frame} (f : Frame) (h : c ≤ rb.length) :
    rbWrite c rb f = rb := by
  simp [rbWrite, Nat.not_lt.mpr h]

theorem rbWrite_length_le {c : Nat} {rb : List Frame} (f : Frame) (h : rb.length ≤ c) :
    (rbWrite c rb f).length ≤ c := by
  unfold rbWrite
  split
  · simp; omega
  · exact h

theorem writeAll_length_le {c : Nat} (fs : List Frame) {rb : List Frame} (h : rb.length ≤ c) :
    (fs.foldl (rbWrite c) rb).length ≤ c := by
  induction fs generalizing rb with
  | nil => exact h
  | cons f fs ih => exact ih (rbWrite_length_le f h)

/-- `IDENTITY`, where it is defined, gives the pushed frame (R96). -/
theorem push_identity {rs : Resampler} (f : Frame) (h : rs.inRate = rs.outRate) :
    (rs.push .identity f).2 = [f] := by
  simp [Resampler.push, h]

@[simp] theorem push_inRate (k : ResamplerKind) (rs : Resampler) (f : Frame) :
    (rs.push k f).1.inRate = rs.inRate := rfl

@[simp] theorem push_outRate (k : ResamplerKind) (rs : Resampler) (f : Frame) :
    (rs.push k f).1.outRate = rs.outRate := rfl

/-- Step 1 of a Tick, as the resampler sees it (R281). -/
theorem retune_rs (s : State) :
    s.retune.rs =
      if s.audio.resolution = s.audio.resolutionOld then s.rs
      else s.rs.configure (generationRate s.audio.resolution) s.params.hostRate := by
  unfold State.retune
  by_cases h : s.audio.resolution = s.audio.resolutionOld <;> simp [h]

/-- Step 1 of a Tick, as the Audio Unit sees it (R281). -/
theorem retune_audio (s : State) :
    s.retune.audio = { s.audio with resolutionOld := s.audio.resolution } := by
  unfold State.retune
  split
  · rfl
  · next h =>
    simp only [ne_eq, Classical.not_not] at h
    rw [h]

/-- A Tick's first step changes nothing that HOST looks at. -/
@[simp] theorem retune_hostEnabled (s : State) : s.retune.hostEnabled = s.hostEnabled := by
  unfold State.retune
  split <;> rfl

/-- What a reset settles on stays: reset again, it is the same (R364). -/
theorem settled_idem (f : Nat → Nat) (n : Nat) :
    Config.settled f (Config.settled f n) = Config.settled f n := by
  unfold Config.settled
  by_cases h : f (f n) = f n <;> simp [h]

/-- A function that does nothing the second time is its own `settled`. -/
theorem settled_eq {f : Nat → Nat} (h : ∀ n, f (f n) = f n) (n : Nat) : Config.settled f n = f n := by
  simp [Config.settled, h]

theorem atReset_atReset (rs : Resampler) (inRate outRate : Nat) :
    (rs.atReset inRate outRate).atReset inRate outRate = rs.atReset inRate outRate := by
  simp [Resampler.atReset, Config.historyAtReset, settled_idem]

/-! ### The LFSR and the timing arithmetic -/

theorem lfsrStep_raw (w : BitVec 1) (x : BitVec 15) :
    (lfsrStep w x).1 = 8 ∨ (lfsrStep w x).1 = -8 := by
  unfold lfsrStep; split <;> simp

theorem lfsrSkip_succ (w : BitVec 1) (n : Nat) (x : BitVec 15) :
    lfsrSkip w (n + 1) x = (lfsrStep w (lfsrSkip w n x)).2 := by
  induction n generalizing x with
  | zero => rfl
  | succ n ih => exact ih (lfsrStep w x).2

theorem interval_bounds (r : BitVec 3) (s : BitVec 4) : 32 ≤ interval r s ∧ interval r s ≤ 14680064 := by
  revert r s; decide

@[simp] theorem baseInterval_eq : baseInterval = 14680064 := by decide

theorem mixerInterval_bounds (r : BitVec 2) : 64 ≤ mixerInterval r ∧ mixerInterval r ≤ 512 := by
  revert r; decide

theorem skipAndPeriod_skip_le {n m : Nat} (hn : 32 ≤ n) (hm : m ≤ 512) :
    (skipAndPeriod n m).1 ≤ 15 := by
  unfold skipAndPeriod
  split
  · have : m / n ≤ 512 / 32 := Nat.div_le_div hm hn (by decide)
    simp only
    omega
  · simp

theorem skipAndPeriod_period (n m : Nat) : (skipAndPeriod n m).2 = max n m := by
  unfold skipAndPeriod; split <;> simp only <;> omega

end Sys2Proof.Machine
end

