-- ==== Sys2Proof/Laws/Host.lean ====
section
/-! SUPPORT. The HOST agent: everything its operations can do. They touch only the ring buffer, the
running pull, the outputs and the counter of draws; within the ring buffer's contract each step of a
pull makes the frame that the snapshot fixed, whatever is written meanwhile (spec 44_host_pull.md R312,
R313, R318; 20_memory.md R98). -/

namespace Sys2Proof.Machine

open Sys2Proof

/-! ### What HOST touches -/

theorem HostOnly.refl (s : State) : HostOnly s s := rfl

theorem HostOnly.trans {s t u : State} (h : HostOnly s t) (h' : HostOnly t u) : HostOnly s u := by
  unfold HostOnly at *
  rw [h] at h'
  exact h'

theorem HostOnly.noise {s t : State} (h : HostOnly s t) : t.noise = s.noise := by
  rw [h]
theorem HostOnly.seq {s t : State} (h : HostOnly s t) : t.seq = s.seq := by
  rw [h]
theorem HostOnly.audio {s t : State} (h : HostOnly s t) : t.audio = s.audio := by
  rw [h]
theorem HostOnly.sched {s t : State} (h : HostOnly s t) : t.sched = s.sched := by
  rw [h]
theorem HostOnly.rs {s t : State} (h : HostOnly s t) : t.rs = s.rs := by
  rw [h]
theorem HostOnly.fifos {s t : State} (h : HostOnly s t) : t.fifos = s.fifos := by
  rw [h]
theorem HostOnly.program {s t : State} (h : HostOnly s t) : t.program = s.program := by
  rw [h]
theorem HostOnly.turn {s t : State} (h : HostOnly s t) : t.turn = s.turn := by
  rw [h]
theorem HostOnly.params {s t : State} (h : HostOnly s t) : t.params = s.params := by
  rw [h]

theorem beginPull_hostOnly (s : State) (k : Nat) : HostOnly s (s.beginPull k) := by
  unfold State.beginPull
  cases k with
  | zero => rfl
  | succ k => simp only; split <;> [rfl; split <;> rfl]

theorem pullStep_hostOnly {s t : State} {p : Pull} (h : s.pullStep p = .ok t) : HostOnly s t := by
  unfold State.pullStep at h
  split at h
  · cases h
  · split at h <;> cases h <;> rfl

theorem hostStep_hostOnly {s t : State} (h : s.hostStep = .ok t) : HostOnly s t := by
  unfold State.hostStep at h
  split at h
  · exact pullStep_hostOnly h
  · cases h
    exact HostOnly.trans (t := s.drawn) rfl (beginPull_hostOnly _ _)

theorem runPull_hostOnly (k : Nat) {s t : State} (h : runPull k s = .ok t) : HostOnly s t := by
  induction k generalizing s with
  | zero => cases h; rfl
  | succ k ih =>
    simp only [runPull] at h
    split at h
    · cases h; rfl
    · split at h
      · cases h
      · next hs => exact (pullStep_hostOnly hs).trans (ih h)

theorem finishPull_hostOnly {s t : State} (h : s.finishPull = .ok t) : HostOnly s t := by
  unfold State.finishPull at h
  split at h
  · cases h
    rfl
  · exact runPull_hostOnly _ h

theorem hostRun_hostOnly (k : Nat) {s t : State} (h : hostRun k s = .ok t) : HostOnly s t := by
  induction k generalizing s with
  | zero => cases h; rfl
  | succ k ih =>
    simp only [hostRun] at h
    split at h
    · split at h
      · cases h
      · next hs => exact (hostStep_hostOnly hs).trans (ih h)
    · cases h; rfl

theorem hostInterlude_hostOnly {s t : State} (h : s.hostInterlude = .ok t) : HostOnly s t := by
  unfold State.hostInterlude at h
  split at h
  · exact HostOnly.trans (t := s.drawn) rfl (hostRun_hostOnly _ h)
  · cases h; rfl

theorem writeFrame_hostOnly (s : State) (f : Frame) : HostOnly s (s.writeFrame f) := rfl

theorem produce_hostOnly (fs : List Frame) {s t : State} (h : produce fs s = .ok t) :
    HostOnly s t := by
  induction fs generalizing s with
  | nil => cases h; rfl
  | cons f fs ih =>
    simp only [produce] at h
    split at h
    · cases h
    · next hs => exact ((hostInterlude_hostOnly hs).trans (writeFrame_hostOnly _ f)).trans (ih h)

/-! ### `State.beginPull`, field by field -/

@[simp] theorem State.beginPull_noise (s : State) (k : Nat) : (s.beginPull k).noise = s.noise :=
  (beginPull_hostOnly s k).noise
@[simp] theorem State.beginPull_seq (s : State) (k : Nat) : (s.beginPull k).seq = s.seq :=
  (beginPull_hostOnly s k).seq
@[simp] theorem State.beginPull_audio (s : State) (k : Nat) : (s.beginPull k).audio = s.audio :=
  (beginPull_hostOnly s k).audio
@[simp] theorem State.beginPull_sched (s : State) (k : Nat) : (s.beginPull k).sched = s.sched :=
  (beginPull_hostOnly s k).sched
@[simp] theorem State.beginPull_rs (s : State) (k : Nat) : (s.beginPull k).rs = s.rs :=
  (beginPull_hostOnly s k).rs
@[simp] theorem State.beginPull_fifos (s : State) (k : Nat) : (s.beginPull k).fifos = s.fifos :=
  (beginPull_hostOnly s k).fifos
@[simp] theorem State.beginPull_program (s : State) (k : Nat) : (s.beginPull k).program = s.program :=
  (beginPull_hostOnly s k).program
@[simp] theorem State.beginPull_turn (s : State) (k : Nat) : (s.beginPull k).turn = s.turn :=
  (beginPull_hostOnly s k).turn
@[simp] theorem State.beginPull_params (s : State) (k : Nat) : (s.beginPull k).params = s.params :=
  (beginPull_hostOnly s k).params

/-! ### Outputs and draws only grow -/

/-- What HOST has given out and drawn stays. -/
def Grows (s t : State) : Prop := s.out <+: t.out ∧ s.draws ≤ t.draws

theorem Grows.refl (s : State) : Grows s s := ⟨List.prefix_refl _, Nat.le_refl _⟩

theorem Grows.trans {s t u : State} (h : Grows s t) (h' : Grows t u) : Grows s u :=
  ⟨h.1.trans h'.1, h.2.trans h'.2⟩

theorem drawn_grows (s : State) : Grows s s.drawn := ⟨List.prefix_refl _, Nat.le_succ _⟩

theorem writeHostBuffer_grows (s : State) (fs : List Frame) : Grows s (s.writeHostBuffer fs) :=
  ⟨List.prefix_append _ _, Nat.le_refl _⟩

theorem beginPull_grows (s : State) (k : Nat) : Grows s (s.beginPull k) := by
  unfold State.beginPull
  cases k with
  | zero => exact writeHostBuffer_grows _ _
  | succ k =>
    simp only
    split
    · exact .refl s
    · split
      · exact writeHostBuffer_grows _ _
      · exact .refl s

theorem pullStep_grows {s t : State} {p : Pull} (h : s.pullStep p = .ok t) : Grows s t := by
  unfold State.pullStep at h
  split at h
  · cases h
  · split at h
    · cases h; exact ⟨List.prefix_append _ _, Nat.le_refl _⟩
    · cases h; exact .refl s

theorem hostStep_grows {s t : State} (h : s.hostStep = .ok t) : Grows s t := by
  unfold State.hostStep at h
  split at h
  · exact pullStep_grows h
  · cases h
    exact (drawn_grows s).trans (beginPull_grows _ _)

theorem runPull_grows (k : Nat) {s t : State} (h : runPull k s = .ok t) : Grows s t := by
  induction k generalizing s with
  | zero => cases h; exact .refl _
  | succ k ih =>
    simp only [runPull] at h
    split at h
    · cases h; exact .refl _
    · split at h
      · cases h
      · next hs => exact (pullStep_grows hs).trans (ih h)

theorem finishPull_grows {s t : State} (h : s.finishPull = .ok t) : Grows s t := by
  unfold State.finishPull at h
  split at h
  · cases h
    exact .refl _
  · exact runPull_grows _ h

theorem hostRun_grows (k : Nat) {s t : State} (h : hostRun k s = .ok t) : Grows s t := by
  induction k generalizing s with
  | zero => cases h; exact .refl _
  | succ k ih =>
    simp only [hostRun] at h
    split at h
    · split at h
      · cases h
      · next hs => exact (hostStep_grows hs).trans (ih h)
    · cases h; exact .refl _

theorem hostInterlude_grows {s t : State} (h : s.hostInterlude = .ok t) : Grows s t := by
  unfold State.hostInterlude at h
  split at h
  · exact (drawn_grows s).trans (hostRun_grows _ h)
  · cases h; exact .refl _

theorem produce_grows (fs : List Frame) {s t : State} (h : produce fs s = .ok t) : Grows s t := by
  induction fs generalizing s with
  | nil => cases h; exact .refl _
  | cons f fs ih =>
    simp only [produce] at h
    split at h
    · cases h
    · next u hs =>
      have g : Grows u (u.writeFrame f) := ⟨List.prefix_refl _, Nat.le_refl _⟩
      exact ((hostInterlude_grows hs).trans g).trans (ih h)

/-! ### Where HOST has no step -/

theorem hostInterlude_of_disabled {s : State} (h : s.hostEnabled = false) :
    s.hostInterlude = .ok s := by
  simp [State.hostInterlude, h]

/-- With no step of HOST between them, the `RbWrite`s of a push follow each other. -/
theorem produce_of_disabled (fs : List Frame) {s : State} (h : s.hostEnabled = false) :
    produce fs s = .ok { s with rb := fs.foldl (rbWrite s.params.ringCapacity) s.rb } := by
  induction fs generalizing s with
  | nil => rfl
  | cons f fs ih =>
    simp only [produce, hostInterlude_of_disabled h]
    rw [ih (s := s.writeFrame f) h]
    rfl

/-! ### What HOST's steps depend on -/

/-- `s` and `t` agree on everything that HOST's steps read, and on their outputs as `view` shows them. -/
structure HostAlike {α : Type} (view : Nat × Output → α) (s t : State) : Prop where
  rb : t.rb = s.rb
  pull : t.pull = s.pull
  draws : t.draws = s.draws
  device : t.audio.deviceOk = s.audio.deviceOk
  pulls : t.params.hostPulls = s.params.hostPulls
  capacity : t.params.ringCapacity = s.params.ringCapacity
  stamp : ∀ o, view (t.sched.now, o) = view (s.sched.now, o)
  out : t.out.map view = s.out.map view

section Alike

variable {α : Type} {view : Nat × Output → α} {s t : State}

theorem HostAlike.hostEnabled (h : HostAlike view s t) : t.hostEnabled = s.hostEnabled := by
  simp [State.hostEnabled, h.device, h.pull, h.pulls]

theorem HostAlike.withPull (h : HostAlike view s t) (rb : List Frame) (p : Option Pull) :
    HostAlike view { s with rb := rb, pull := p } { t with rb := rb, pull := p } :=
  ⟨rfl, rfl, h.draws, h.device, h.pulls, h.capacity, h.stamp, h.out⟩

theorem HostAlike.drawn (h : HostAlike view s t) : HostAlike view s.drawn t.drawn :=
  ⟨h.rb, h.pull, by simp [h.draws], h.device, h.pulls, h.capacity, h.stamp, h.out⟩

theorem HostAlike.writeHostBuffer (h : HostAlike view s t) (fs : List Frame) :
    HostAlike view (s.writeHostBuffer fs) (t.writeHostBuffer fs) :=
  ⟨h.rb, h.pull, h.draws, h.device, h.pulls, h.capacity, h.stamp, by
    simp [State.writeHostBuffer, State.emit, h.out, h.stamp]⟩

theorem HostAlike.writeFrame (h : HostAlike view s t) (f : Frame) :
    HostAlike view (s.writeFrame f) (t.writeFrame f) :=
  ⟨by simp only [State.writeFrame, h.rb, h.capacity], h.pull, h.draws, h.device, h.pulls, h.capacity,
    h.stamp, h.out⟩

theorem HostAlike.beginPull (h : HostAlike view s t) (k : Nat) :
    HostAlike view (s.beginPull k) (t.beginPull k) := by
  unfold State.beginPull
  cases k with
  | zero => exact h.writeHostBuffer _
  | succ k =>
    simp only [h.rb]
    split
    · exact h.withPull s.rb _
    · split
      · exact h.writeHostBuffer _
      · exact h.withPull s.rb _

/-- Two computations that are refused for the same reason, or answer states that are alike. -/
def AlikeAnswers (view : Nat × Output → α) (x y : Except Refusal State) : Prop :=
  (∃ r, x = .error r ∧ y = .error r) ∨ ∃ s t, x = .ok s ∧ y = .ok t ∧ HostAlike view s t

theorem HostAlike.hostStep (h : HostAlike view s t) : AlikeAnswers view s.hostStep t.hostStep := by
  unfold State.hostStep
  rw [h.pull]
  cases s.pull with
  | none =>
    simp only [h.draws]
    exact .inr ⟨_, _, rfl, rfl, h.drawn.beginPull _⟩
  | some p =>
    simp only [State.pullStep, h.rb]
    cases p.take s.rb with
    | error r => exact .inl ⟨r, rfl, rfl⟩
    | ok x =>
      cases p.more with
      | zero => exact .inr ⟨_, _, rfl, rfl, (h.withPull x.2 none).writeHostBuffer _⟩
      | succ more => exact .inr ⟨_, _, rfl, rfl, h.withPull x.2 _⟩

theorem HostAlike.hostRun (k : Nat) (h : HostAlike view s t) :
    AlikeAnswers view (hostRun k s) (hostRun k t) := by
  induction k generalizing s t with
  | zero => exact .inr ⟨_, _, rfl, rfl, h⟩
  | succ k ih =>
    simp only [Machine.hostRun, h.hostEnabled]
    split
    · rcases h.hostStep with ⟨r, hs, ht⟩ | ⟨s', t', hs, ht, h'⟩
      · rw [hs, ht]
        exact .inl ⟨r, rfl, rfl⟩
      · rw [hs, ht]
        exact ih h'
    · exact .inr ⟨_, _, rfl, rfl, h⟩

theorem HostAlike.hostInterlude (h : HostAlike view s t) :
    AlikeAnswers view s.hostInterlude t.hostInterlude := by
  unfold State.hostInterlude
  rw [h.hostEnabled, h.draws]
  split
  · exact HostAlike.hostRun _ h.drawn
  · exact .inr ⟨_, _, rfl, rfl, h⟩

/-- A push's `RbWrite`s with HOST's steps between them depend on nothing but what HOST's steps read. -/
theorem HostAlike.produce (fs : List Frame) (h : HostAlike view s t) :
    AlikeAnswers view (produce fs s) (produce fs t) := by
  induction fs generalizing s t with
  | nil => exact .inr ⟨_, _, rfl, rfl, h⟩
  | cons f fs ih =>
    simp only [Machine.produce]
    rcases h.hostInterlude with ⟨r, hs, ht⟩ | ⟨s', t', hs, ht, h'⟩
    · rw [hs, ht]
      exact .inl ⟨r, rfl, rfl⟩
    · rw [hs, ht]
      exact ih (h'.writeFrame f)

end Alike

/-! ### A pull within the ring buffer's contract -/

theorem nextPeek_eq {avail y : Nat} (h : y < avail) : nextPeek avail y = (y + 1) % avail := by
  unfold nextPeek
  split
  · rw [show y + 1 = avail by omega, Nat.mod_self]
  · rw [Nat.mod_eq_of_lt (by omega)]

/-- The next operation of a pull within the contract makes the first frame of what the pull will give,
and leaves the rest of it to come. -/
theorem take_spec {p : Pull} {rb : List Frame} (h : p.inContract rb) :
    ∃ f rb', p.take rb = .ok (f, rb') ∧ rb'.length ≤ rb.length ∧
      (p.more = 0 → p.output rb = p.made ++ [f] ∧ p.leaves rb = rb') ∧
      ∀ more, p.more = more + 1 → (p.next more f).inContract rb' ∧
        (p.next more f).output rb' = p.output rb ∧ (p.next more f).leaves rb' = p.leaves rb := by
  obtain ⟨path, more, avail, index, made⟩ := p
  cases path with
  | reading =>
    cases rb with
    | nil => exact absurd (h.1 rfl) (Nat.not_lt_zero _)
    | cons f rest =>
      refine ⟨f, rest, rfl, by simp, ?_, ?_⟩
      · intro hm
        simp only at hm
        subst hm
        simp [Pull.output, Pull.leaves]
      · intro m hm
        simp only at hm
        subst hm
        have hm := h.1 rfl
        simp only [List.length_cons] at hm
        refine ⟨⟨fun _ => by simp only [Pull.next]; omega, fun h => by simp [Pull.next] at h⟩, ?_, ?_⟩
        · simp [Pull.next, Pull.output]
        · simp [Pull.next, Pull.leaves]
  | peeking =>
    obtain ⟨hi, ha⟩ := h.2 rfl
    simp only at hi ha
    have hrb : index < rb.length := by omega
    have h0 : index % avail = index := Nat.mod_eq_of_lt hi
    refine ⟨rb[index], rb, by simp [Pull.take, rbPeek, hrb], Nat.le_refl _, ?_, ?_⟩
    · intro hm
      simp only at hm
      subst hm
      simp [Pull.output, Pull.leaves, List.range_succ, h0, hrb]
    · intro m hm
      simp only at hm
      subst hm
      refine ⟨⟨fun h => by simp [Pull.next] at h, fun _ => ⟨?_, ha⟩⟩, ?_, rfl⟩
      · show nextPeek avail index < avail
        rw [nextPeek_eq hi]
        exact Nat.mod_lt _ (by omega)
      · simp only [Pull.next, Pull.output, nextPeek_eq hi]
        rw [List.range_succ_eq_map (n := m + 1)]
        simp only [List.map_cons, List.map_map, Nat.add_zero, h0, List.append_assoc,
          List.singleton_append]
        rw [List.getElem?_eq_getElem hrb]
        simp only [Option.getD_some]
        congr 2
        apply List.map_congr_left
        intro j _
        simp only [Function.comp_apply, Nat.succ_eq_add_one]
        rw [Nat.mod_add_mod, show index + 1 + j = index + (j + 1) by omega]

/-- A producer's write never changes what a running pull will give (R98 items 2 and 3, R318). -/
theorem output_rbWrite {p : Pull} {rb : List Frame} (h : p.inContract rb) (c : Nat) (f : Frame) :
    p.inContract (rbWrite c rb f) ∧ p.output (rbWrite c rb f) = p.output rb := by
  unfold rbWrite
  split
  · obtain ⟨path, more, avail, index, made⟩ := p
    cases path with
    | reading =>
      have hm := h.1 rfl
      simp only at hm
      refine ⟨⟨fun _ => by simp; omega, fun h => by simp at h⟩, ?_⟩
      simp only [Pull.output]
      rw [List.take_append_of_le_length (by omega)]
    | peeking =>
      obtain ⟨hi, ha⟩ := h.2 rfl
      simp only at hi ha
      refine ⟨⟨fun h => by simp at h, fun _ => ⟨hi, by simp; omega⟩⟩, ?_⟩
      simp only [Pull.output]
      congr 1
      apply List.map_congr_left
      intro j _
      have : (index + j) % avail < rb.length := by
        have := Nat.mod_lt (index + j) (show 0 < avail by omega)
        omega
      rw [List.getElem?_append_left this]
  · exact ⟨h, rfl⟩

/-- The rest of a running pull, with nothing between its operations. -/
theorem runPull_spec (k : Nat) {s : State} {p : Pull} (hp : s.pull = some p)
    (h : p.inContract s.rb) (hk : p.more = k) :
    runPull (k + 1) s =
      .ok
        (({ s with rb := p.leaves s.rb, pull := none } : State).writeHostBuffer (p.output s.rb)) := by
  induction k generalizing s p with
  | zero =>
    obtain ⟨f, rb', h1, -, h2, -⟩ := take_spec h
    obtain ⟨h3, h4⟩ := h2 hk
    simp only [runPull, hp, State.pullStep, h1, hk, h3, h4]
  | succ k ih =>
    obtain ⟨f, rb', h1, -, -, h2⟩ := take_spec h
    obtain ⟨h3, h4, h5⟩ := h2 k hk
    rw [runPull]
    simp only [hp, State.pullStep, h1, hk]
    rw [ih (s := { s with rb := rb', pull := some (p.next k f) }) rfl h3 rfl]
    simp only [h4, h5]

theorem finishPull_of_none {s : State} (h : s.pull = none) : s.finishPull = .ok s := by
  simp [State.finishPull, h]

theorem finishPull_of_some {s : State} {p : Pull} (hp : s.pull = some p) (h : p.inContract s.rb) :
    s.finishPull =
      .ok
        (({ s with rb := p.leaves s.rb, pull := none } : State).writeHostBuffer (p.output s.rb)) := by
  simp [State.finishPull, hp, runPull_spec p.more hp h rfl]

theorem finishPull_of_contract {s : State} (h : s.pullInContract) : ∃ t, s.finishPull = .ok t := by
  cases hp : s.pull with
  | none => exact ⟨_, finishPull_of_none hp⟩
  | some p => exact ⟨_, finishPull_of_some hp (h p hp)⟩

theorem pullStep_pull_lt {s t : State} {p : Pull} (h : s.pullStep p = .ok t) :
    ∀ q, t.pull = some q → q.more + 1 = p.more := by
  unfold State.pullStep at h
  split at h
  · cases h
  · split at h
    · cases h; intro q hq; simp at hq
    · next hm => cases h; intro q hq; cases hq; simpa [Pull.next] using hm.symm

theorem runPull_pull_none (k : Nat) {s t : State} (h : runPull k s = .ok t)
    (hs : ∀ p, s.pull = some p → p.more < k) : t.pull = none := by
  induction k generalizing s with
  | zero =>
    cases hp : s.pull with
    | none => cases h; exact hp
    | some p => exact absurd (hs p hp) (Nat.not_lt_zero _)
  | succ k ih =>
    simp only [runPull] at h
    split at h
    · next hp => cases h; exact hp
    · next p hp =>
      split at h
      · cases h
      · next hst =>
        refine ih h (fun q hq => ?_)
        have := pullStep_pull_lt hst q hq
        have := hs p hp
        omega

/-- After it, no pull is running. -/
theorem finishPull_pull {s t : State} (h : s.finishPull = .ok t) : t.pull = none := by
  unfold State.finishPull at h
  split at h
  · next hp =>
    cases h
    exact hp
  · next p hp =>
    refine runPull_pull_none _ h (fun q hq => ?_)
    rw [hp] at hq
    cases hq
    omega

/-- A pull starts with its whole output fixed: the oldest frames, silence, or the queued frames in
turn; and within the ring buffer's contract. -/
theorem beginPull_contract {s : State} (h : s.pullInContract) (k : Nat) :
    (s.beginPull k).pullInContract := by
  unfold State.beginPull
  cases k with
  | zero => exact h
  | succ k =>
    simp only
    split
    · intro p hp
      cases hp
      exact ⟨fun _ => by simp only; omega, fun h => by simp at h⟩
    · split
      · exact h
      · next h0 =>
        intro p hp
        cases hp
        exact ⟨fun h => by simp at h, fun _ => ⟨Nat.pos_of_ne_zero h0, Nat.le_refl _⟩⟩

theorem beginPull_rb (s : State) (k : Nat) : (s.beginPull k).rb = s.rb := by
  unfold State.beginPull
  cases k with
  | zero => rfl
  | succ k => simp only; split <;> [rfl; split <;> rfl]

/-- A whole pull with no other running: what it gives and what it leaves (R312 to R314). -/
theorem runPull_beginPull {s : State} (hp : s.pull = none) (k : Nat) :
    runPull k (s.beginPull k) =
      .ok
        (if 2 * k ≤ s.rb.length then
          ({ s with rb := s.rb.drop k } : State).writeHostBuffer (s.rb.take k)
        else if s.rb.length = 0 then s.writeHostBuffer (List.replicate k silence)
        else
          s.writeHostBuffer
            ((List.range k).map fun j => (s.rb[j % s.rb.length]?).getD silence)) := by
  cases k with
  | zero => simp [State.beginPull, runPull]
  | succ k =>
    simp only [State.beginPull]
    split
    · rw [runPull_spec (p := ⟨.reading, k, s.rb.length, 0, []⟩) k rfl
        ⟨fun _ => by show k < s.rb.length; omega, fun h => by simp at h⟩ rfl]
      simp [Pull.leaves, Pull.output, ← hp]
    · split
      · simp [runPull, hp]
      · rw [runPull_spec (s := { s with pull := some ⟨.peeking, k, s.rb.length, 0, []⟩ }) k rfl
          ⟨fun h => by simp at h, fun _ => ⟨by show 0 < s.rb.length; omega, Nat.le_refl _⟩⟩ rfl]
        simp [Pull.leaves, Pull.output, ← hp]

/-! ### Within the contract nothing is refused -/

theorem pullStep_of_contract {s : State} {p : Pull} (hp : p.inContract s.rb) :
    ∃ t, s.pullStep p = .ok t ∧ t.pullInContract := by
  obtain ⟨f, rb', h1, -, -, h3⟩ := take_spec hp
  simp only [State.pullStep, h1]
  cases hm : p.more with
  | zero => exact ⟨_, rfl, fun q hq => by cases hq⟩
  | succ more =>
    exact ⟨_, rfl, fun q hq => by
      cases hq
      exact (h3 more hm).1⟩

theorem hostStep_of_contract {s : State} (h : s.pullInContract) :
    ∃ t, s.hostStep = .ok t ∧ t.pullInContract := by
  unfold State.hostStep
  cases hp : s.pull with
  | some p => exact pullStep_of_contract (h p hp)
  | none => exact ⟨_, rfl, beginPull_contract (s := s.drawn) h _⟩

theorem hostRun_of_contract (k : Nat) {s : State} (h : s.pullInContract) :
    ∃ t, hostRun k s = .ok t ∧ t.pullInContract := by
  induction k generalizing s with
  | zero => exact ⟨_, rfl, h⟩
  | succ k ih =>
    simp only [hostRun]
    split
    · obtain ⟨t, ht, hc⟩ := hostStep_of_contract h
      rw [ht]
      exact ih hc
    · exact ⟨_, rfl, h⟩

theorem hostInterlude_of_contract {s : State} (h : s.pullInContract) :
    ∃ t, s.hostInterlude = .ok t ∧ t.pullInContract := by
  unfold State.hostInterlude
  split
  · exact hostRun_of_contract _ (s := s.drawn) h
  · exact ⟨_, rfl, h⟩

theorem writeFrame_contract {s : State} (h : s.pullInContract) (f : Frame) :
    (s.writeFrame f).pullInContract := fun p hp => (output_rbWrite (h p hp) _ f).1

theorem produce_of_contract (fs : List Frame) {s : State} (h : s.pullInContract) :
    ∃ t, produce fs s = .ok t ∧ t.pullInContract := by
  induction fs generalizing s with
  | nil => exact ⟨_, rfl, h⟩
  | cons f fs ih =>
    obtain ⟨t, ht, hc⟩ := hostInterlude_of_contract h
    simp only [produce, ht]
    exact ih (writeFrame_contract hc f)

/-- `State.pushFrame` is the push with HOST's steps between its writes, in every state. -/
theorem pushFrame_eq (s : State) (f : Frame) :
    s.pushFrame f =
      produce (s.rs.push s.params.resampler f).2
        { s with rs := (s.rs.push s.params.resampler f).1 } := by
  unfold State.pushFrame known
  split
  · next h =>
    obtain ⟨t, ht, -⟩ :=
      produce_of_contract (s.rs.push s.params.resampler f).2
        (s := { s with rs := (s.rs.push s.params.resampler f).1 }) (of_decide_eq_true h)
    rw [ht]
  · rfl

theorem pushFrame_of_contract {s : State} (h : s.pullInContract) (f : Frame) :
    ∃ t, s.pushFrame f = .ok t ∧ t.pullInContract := by
  rw [pushFrame_eq]
  exact produce_of_contract _ h

/-- A push changes the resampler as `RsPush` does, and otherwise what HOST touches. -/
theorem pushFrame_hostOnly {s t : State} {f : Frame} (h : s.pushFrame f = .ok t) :
    HostOnly { s with rs := (s.rs.push s.params.resampler f).1 } t := by
  rw [pushFrame_eq] at h
  exact produce_hostOnly _ h

theorem pushFrame_grows {s t : State} {f : Frame} (h : s.pushFrame f = .ok t) : Grows s t := by
  rw [pushFrame_eq] at h
  exact produce_grows (s := { s with rs := (s.rs.push s.params.resampler f).1 }) _ h

theorem pushFrame_of_disabled {s : State} (h : s.hostEnabled = false) (f : Frame) :
    s.pushFrame f =
      .ok
        { s with
          rs := (s.rs.push s.params.resampler f).1
          rb := (s.rs.push s.params.resampler f).2.foldl (rbWrite s.params.ringCapacity) s.rb } := by
  rw [pushFrame_eq]
  exact produce_of_disabled _ (s := { s with rs := (s.rs.push s.params.resampler f).1 }) h

/-! ### What HOST keeps -/

/-- The ring buffer's bound, the running pull's contract and the open device, which HOST's steps and the
producer's writes keep. -/
structure HostSound (s : State) : Prop where
  ring : s.rb.length ≤ s.params.ringCapacity
  device : s.pull.isSome = true → s.audio.deviceOk = true
  contract : s.pullInContract

theorem pullStep_sound {s t : State} {p : Pull} (h : HostSound s) (hp : s.pull = some p)
    (ht : s.pullStep p = .ok t) : HostSound t := by
  obtain ⟨f, rb', h1, hl, h2, h3⟩ := take_spec (h.contract p hp)
  simp only [State.pullStep, h1] at ht
  cases hm : p.more with
  | zero =>
    rw [hm] at ht
    cases ht
    exact ⟨hl.trans h.ring, by simp, fun q hq => by cases hq⟩
  | succ more =>
    rw [hm] at ht
    cases ht
    exact ⟨hl.trans h.ring, fun _ => h.device (by simp [hp]), fun q hq => by
      cases hq
      exact (h3 more hm).1⟩

theorem hostStep_sound {s t : State} (h : HostSound s) (he : s.hostEnabled = true)
    (ht : s.hostStep = .ok t) : HostSound t := by
  unfold State.hostStep at ht
  cases hp : s.pull with
  | some p =>
    rw [hp] at ht
    exact pullStep_sound h hp ht
  | none =>
    rw [hp] at ht
    cases ht
    refine ⟨?_, fun _ => ?_, beginPull_contract (s := s.drawn) h.contract _⟩
    · rw [beginPull_rb]
      simpa using h.ring
    · simp only [State.hostEnabled, Bool.and_eq_true] at he
      simpa using he.1

theorem hostRun_sound (k : Nat) {s t : State} (h : HostSound s) (ht : hostRun k s = .ok t) :
    HostSound t := by
  induction k generalizing s with
  | zero => cases ht; exact h
  | succ k ih =>
    simp only [hostRun] at ht
    split at ht
    · next he =>
      split at ht
      · cases ht
      · next hs => exact ih (hostStep_sound h he hs) ht
    · cases ht; exact h

theorem hostInterlude_sound {s t : State} (h : HostSound s) (ht : s.hostInterlude = .ok t) :
    HostSound t := by
  unfold State.hostInterlude at ht
  split at ht
  · exact hostRun_sound _ (s := s.drawn) ⟨h.ring, h.device, h.contract⟩ ht
  · cases ht; exact h

theorem writeFrame_sound {s : State} (h : HostSound s) (f : Frame) : HostSound (s.writeFrame f) where
  ring := rbWrite_length_le f h.ring
  device := h.device
  contract := writeFrame_contract h.contract f

theorem produce_sound (fs : List Frame) {s t : State} (h : HostSound s) (ht : produce fs s = .ok t) :
    HostSound t := by
  induction fs generalizing s with
  | nil => cases ht; exact h
  | cons f fs ih =>
    simp only [produce] at ht
    split at ht
    · cases ht
    · next hs => exact ih (writeFrame_sound (hostInterlude_sound h hs) f) ht

theorem pushFrame_sound {s t : State} {f : Frame} (h : HostSound s) (ht : s.pushFrame f = .ok t) :
    HostSound t := by
  rw [pushFrame_eq] at ht
  exact produce_sound _ (s := { s with rs := (s.rs.push s.params.resampler f).1 })
    ⟨h.ring, h.device, h.contract⟩ ht

/-- The end of a running pull keeps the ring buffer's bound. -/
theorem finishPull_sound {s t : State} (h : HostSound s) (ht : s.finishPull = .ok t) :
    HostSound t where
  ring := by
    cases hp : s.pull with
    | none =>
      rw [finishPull_of_none hp] at ht
      cases ht
      exact h.ring
    | some p =>
      rw [finishPull_of_some hp (h.contract p hp)] at ht
      cases ht
      have : (p.leaves s.rb).length ≤ s.rb.length := by
        unfold Pull.leaves
        split <;> simp
      exact this.trans h.ring
  device := by simp [finishPull_pull ht]
  contract p hp := by simp [finishPull_pull ht] at hp

end Sys2Proof.Machine
end

