-- ==== Sys2Proof/Laws/PerInstr.lean ====
section
/-! SUPPORT. What holds of every instruction as syntax, one lemma per constructor: its encoded word has
the fixed bits of its row of the opcode table (spec 30_encoding.md R125). -/

namespace Sys2Proof.Laws.MatchesRow

open Sys2Proof

/-- The word of `i` matches its row: `w & mask = match`. -/
def Statement (i : Instr) : Prop := encode i &&& rowMask i = rowMatch i

theorem writeWord_matches (o : BitVec 3) (d : Byte) :
    writeWord o d &&& 0xFF00 = writeWord o 0 := by
  revert o d
  decide +kernel

theorem noiseRd0 : Statement .noiseRd0 := rfl
theorem noiseRd1 : Statement .noiseRd1 := rfl
theorem noiseRd2 : Statement .noiseRd2 := rfl
theorem noiseRd3 : Statement .noiseRd3 := rfl
theorem noiseRd4 : Statement .noiseRd4 := rfl
theorem noiseRd5 : Statement .noiseRd5 := rfl
theorem noiseRd6 : Statement .noiseRd6 := rfl
theorem noiseRd7 : Statement .noiseRd7 := rfl
theorem noiseWr0 (d : Byte) : Statement (.noiseWr0 d) := (writeWord_matches 0 d).trans rfl
theorem noiseWr1 (d : Byte) : Statement (.noiseWr1 d) := (writeWord_matches 1 d).trans rfl
theorem noiseWr2 (d : Byte) : Statement (.noiseWr2 d) := (writeWord_matches 2 d).trans rfl
theorem noiseWr3 (d : Byte) : Statement (.noiseWr3 d) := (writeWord_matches 3 d).trans rfl
theorem noiseWr4 (d : Byte) : Statement (.noiseWr4 d) := (writeWord_matches 4 d).trans rfl
theorem noiseWr5 (d : Byte) : Statement (.noiseWr5 d) := (writeWord_matches 5 d).trans rfl
theorem noiseWr6 (d : Byte) : Statement (.noiseWr6 d) := (writeWord_matches 6 d).trans rfl
theorem noiseWr7 (d : Byte) : Statement (.noiseWr7 d) := (writeWord_matches 7 d).trans rfl

theorem biasWr (l : BitVec 10) (r : BitVec 2) : Statement (.biasWr l r) := by
  show ((0x2#4 ++ l ++ r : TxWord)) &&& 0xF000 = 0x2000
  ext k hk
  simp only [BitVec.getElem_and, BitVec.getElem_append]
  interval_cases k <;> simp

theorem latchFifo (i : FifoId) (t : Nat) : Statement (.latchFifo i t) := by
  show ((0x3#4 ++ 0#3 ++ fifoBit i ++ BitVec.ofNat 8 t : TxWord)) &&& 0xFE00 = 0x3000
  ext k hk
  simp only [BitVec.getElem_and, BitVec.getElem_append]
  interval_cases k <;> simp

theorem hostPull (n : Nat) : Statement (.hostPull n) := by
  show ((0x4#4 ++ BitVec.ofNat 12 n : TxWord)) &&& 0xF000 = 0x4000
  ext k hk
  simp only [BitVec.getElem_and, BitVec.getElem_append]
  interval_cases k <;> simp

theorem reset : Statement .reset := rfl
theorem evGenerate : Statement .evGenerate := rfl
theorem evTick : Statement .evTick := rfl
theorem evSeq : Statement .evSeq := rfl
theorem evLengthClock : Statement .evLengthClock := rfl
theorem evEnvelopeClock : Statement .evEnvelopeClock := rfl

end Sys2Proof.Laws.MatchesRow
end

