-- ==== Sys2Proof/Tests/Slice0.lean ====
section
/-! SUPPORT. The model's own tests: decoding from words written out bit by bit from spec
30_encoding.md R120, one-step vectors of 95_test_vectors.md part 2, and a witness for the hypotheses of
every statement that has some. -/

namespace Sys2Proof.Tests

open Sys2Proof Sys2Proof.Machine

/-! ### Helpers -/

/-- The next state, where there is one. -/
def next? (o : Host.Outcome State Fault Refusal) : Option State :=
  match o with
  | .next t => some t
  | .fault _ => none
  | .refused _ => none

/-- The refusal, where there is one. -/
def refusal? (o : Host.Outcome State Fault Refusal) : Option Refusal :=
  match o with
  | .next _ => none
  | .fault _ => none
  | .refused r => some r

/-- What the premises of 95_test_vectors.md fix: punctual runs, `REG_FIFO`, `EVENTS_FIRST`,
`IDENTITY` at equal rates, quiet square channels, and no pull or clock that no program lists. -/
def tp : Params where
  tieOrder := .regFifo
  cpuSync := .eventsFirst
  lateness := .punctual
  seqSchedule := .fs512
  resampler := .identity
  hostRate := 32768
  ringCapacity := 4
  openResult := some true
  squares := some ⟨0, 0⟩
  dmaArrivals := .noBytes
  hostPulls := .listedOnly
  externalClocks := .listedOnly

/-- The state after reset under those premises. -/
def base : State :=
  { State.reset with
    params := tp, turn := .emulation, rs := { inRate := 32768, outRate := 32768, history := 0 } }

def chan (n : Noise → Noise) (q : Sequencer → Sequencer) : State :=
  { base with noise := n base.noise, seq := q base.seq }

def envelope (e : Envelope → Envelope) : State := chan id (fun q => { q with env := e q.env })

/-- `base` with two instructions run. -/
def after2 (i j : Instr) : Option State := (next? (exec i base)).bind (fun t => next? (exec j t))

/-- `base` with a listed program. -/
def listed (p : List (Nat × TxWord)) : State := { base with program := p }

/-! ### Well-formedness -/

theorem test_wellFormed_refuses_long_drain : (Instr.latchFifo .fifo0 256).wellFormed = false := by
  decide
theorem test_wellFormed_admits_drain_255 : (Instr.latchFifo .fifo1 255).wellFormed = true := by decide
theorem test_wellFormed_refuses_long_pull : (Instr.hostPull 4096).wellFormed = false := by decide
theorem test_wellFormed_admits_pull_4095 : (Instr.hostPull 4095).wellFormed = true := by decide

/-! ### Decoding, each word written out from R120: port, then the fields of bits 11:0 -/

theorem test_decode_reads :
    decode 0b0000000000000000#16 = .ok .noiseRd0 ∧ decode 0b0000000100000000#16 = .ok .noiseRd1 ∧
    decode 0b0000001000000000#16 = .ok .noiseRd2 ∧ decode 0b0000001100000000#16 = .ok .noiseRd3 ∧
    decode 0b0000010000000000#16 = .ok .noiseRd4 ∧ decode 0b0000010100000000#16 = .ok .noiseRd5 ∧
    decode 0b0000011000000000#16 = .ok .noiseRd6 ∧ decode 0b0000011100000000#16 = .ok .noiseRd7 := by
  decide

/-- Port 0001, bit 11 zero, three bits of offset, eight of data. -/
theorem test_decode_writes :
    decode 0b0001000000110000#16 = .ok (.noiseWr0 0x30) ∧
    decode 0b0001000110100011#16 = .ok (.noiseWr1 0xA3) ∧
    decode 0b0001001011111111#16 = .ok (.noiseWr2 0xFF) ∧
    decode 0b0001001100000001#16 = .ok (.noiseWr3 0x01) ∧
    decode 0b0001010001011011#16 = .ok (.noiseWr4 0x5B) ∧
    decode 0b0001010111000000#16 = .ok (.noiseWr5 0xC0) ∧
    decode 0b0001011010000000#16 = .ok (.noiseWr6 0x80) ∧
    decode 0b0001011111111111#16 = .ok (.noiseWr7 0xFF) := by
  decide

/-- Port 0010, ten bits of level, two of resolution (vectors B4, X2). -/
theorem test_decode_bias :
    decode 0b0010111111111100#16 = .ok (.biasWr 0x3FF 0) ∧
    decode 0b0010010000000011#16 = .ok (.biasWr 0x100 3) := by
  decide

/-- Port 0011, three zero bits, the FIFO id, eight bits of drain count (vector X3). -/
theorem test_decode_latch :
    decode 0b0011000100000101#16 = .ok (.latchFifo .fifo1 5) ∧
    decode 0b0011000011111111#16 = .ok (.latchFifo .fifo0 255) := by
  decide

/-- Port 0100, twelve bits of byte length (vectors X4, X13). -/
theorem test_decode_pull :
    decode 0b0100000000010000#16 = .ok (.hostPull 16) ∧
    decode 0b0100111111111111#16 = .ok (.hostPull 4095) := by
  decide

/-- Ports whose bits 11:0 are zero. -/
theorem test_decode_reset_and_events :
    decode 0b0101000000000000#16 = .ok .reset ∧ decode 0b1000000000000000#16 = .ok .evGenerate ∧
    decode 0b1001000000000000#16 = .ok .evTick ∧ decode 0b1010000000000000#16 = .ok .evSeq ∧
    decode 0b1011000000000000#16 = .ok .evLengthClock ∧
    decode 0b1100000000000000#16 = .ok .evEnvelopeClock := by
  decide

/-- Vectors X5 to X10. -/
theorem test_decode_rejects :
    decode 0x0800 = .error .reservedBits ∧ decode 0x00FF = .error .reservedBits ∧
    decode 0x1800 = .error .reservedBits ∧ decode 0x3200 = .error .reservedBits ∧
    decode 0x5001 = .error .reservedBits ∧ decode 0x6000 = .error .reservedPort ∧
    decode 0x7FFF = .error .reservedPort ∧ decode 0xD000 = .error .reservedPort ∧
    decode 0xFFFF = .error .reservedPort := by
  decide

theorem test_decodeTableWord :
    decodeTableWord 16 0x14FF = some (.noiseWr4 0xFF) ∧ decodeTableWord 16 0x6000 = none := by
  decide

/-! ### One-step vectors -/

/-- RD3: `WR 1, 0xA3` then `RD 1` returns 0xA3. -/
theorem test_read_envelope :
    (after2 (.noiseWr1 0xA3) .noiseRd1).map State.out = some [(0, .readData 0xA3)] := by decide

/-- RD5: `WR 4, 0x5B` then `RD 4` returns 0x5B. -/
theorem test_read_frequency :
    (after2 (.noiseWr4 0x5B) .noiseRd4).map State.out = some [(0, .readData 0x5B)] := by decide

/-- RD6: `WR 5, 0xC0` then `RD 5` returns 0x40. -/
theorem test_read_control :
    (after2 (.noiseWr5 0xC0) .noiseRd5).map State.out = some [(0, .readData 0x40)] := by decide

/-- R151: `WR 0, 0x3F` then `RD 0` returns 0x00. -/
theorem test_read_length :
    (after2 (.noiseWr0 0x3F) .noiseRd0).map State.out = some [(0, .readData 0x00)] := by decide

/-- RD4, RD8: unused offsets and those outside the window read 0 after any write. -/
theorem test_read_unused :
    (after2 (.noiseWr2 0xFF) .noiseRd2).map State.out = some [(0, .readData 0)] ∧
    (after2 (.noiseWr3 0x5A) .noiseRd3).map State.out = some [(0, .readData 0)] ∧
    (after2 (.noiseWr6 0xFF) .noiseRd6).map State.out = some [(0, .readData 0)] ∧
    (after2 (.noiseWr7 0xFF) .noiseRd7).map State.out = some [(0, .readData 0)] := by decide

/-- W10: length loads ignore bits 7:6. -/
theorem test_length_load :
    lengthLoad 0x00 = 64 ∧ lengthLoad 0x3F = 1 ∧ lengthLoad 0xC0 = 64 ∧ lengthLoad 0xFF = 1 := by
  decide

/-- W1: `WR 1, 0xF0` from reset is zombie case B. -/
theorem test_envelope_write :
    (next? (exec (.noiseWr1 0xF0) base)).map (fun t => (t.seq.env, t.noise.dacEnable)) =
      some (⟨15, 0, 0, 2, false, 0⟩, true) := by decide

/-- R179, the last row: cases A, B and C, direction kept and flipped, from volume 15. -/
theorem test_zombie_row_15 :
    zombieVolume ⟨0, 0, 0, 15, true, 0⟩ 0 = 0 ∧ zombieVolume ⟨0, 0, 0, 15, true, 0⟩ 1 = 0 ∧
    zombieVolume ⟨0, 0, 3, 15, true, 0⟩ 0 = 1 ∧ zombieVolume ⟨0, 0, 3, 15, true, 0⟩ 1 = 15 ∧
    zombieVolume ⟨0, 1, 3, 15, true, 0⟩ 1 = 15 ∧ zombieVolume ⟨0, 1, 3, 15, true, 0⟩ 0 = 1 := by
  decide

/-- W16: `WR 4, 0xFF`. -/
theorem test_frequency_write :
    (next? (exec (.noiseWr4 0xFF) base)).map
      (fun t => (t.noise.ratio, t.noise.width, t.noise.shift)) = some (7, 1, 15) := by decide

/-- W12: a trigger with the DAC off. -/
theorem test_trigger_dac_off :
    (next? (exec (.noiseWr5 0x80) base)).map
      (fun t => (t.noise.enabled, t.noise.lfsr, t.seq.length, t.seq.env.active)) =
      some (false, 0x4000, 64, true) := by decide

/-- W11: length enable without a trigger. -/
theorem test_length_enable_alone :
    (next? (exec (.noiseWr5 0x40) base)).map
      (fun t => (t.noise.lengthEnable, t.noise.lfsr, t.seq.length)) = some (true, 0, 0) := by decide

/-- W15: writes with no effect. -/
theorem test_writes_without_effect :
    next? (exec (.noiseWr2 0xFF) base) = some base ∧ next? (exec (.noiseWr3 0x01) base) = some base ∧
    next? (exec (.noiseWr6 0x80) base) = some base ∧
    next? (exec (.noiseWr7 0xFF) base) = some base := ⟨rfl, rfl, rfl, rfl⟩

/-- B1: `BIAS 2` stores the resolution; the pending `TICK` stays. -/
theorem test_bias :
    (next? (exec (.biasWr 0x100 2) base)).map
      (fun t => (t.audio.resolution, t.audio.resolutionOld, t.sched.pending.head?)) =
      some (2, 0, some ⟨.tick, 512, 0⟩) := by decide

def fifo17 : State :=
  { base with fifos := ⟨0x80 :: 0x7F :: List.replicate 15 0, 1 :: 2 :: 3 :: List.replicate 17 0⟩ }

/-- LT2: two drains, two requests. -/
theorem test_latch :
    (next? (exec (.latchFifo .fifo0 2) fifo17)).map
      (fun t => (t.audio.latch.zero.toInt, t.fifos.zero.length, t.out)) =
      some (127, 15, [(0, .dmaRequest .fifo0), (0, .dmaRequest .fifo0)]) := by decide

/-- LT3: no request above the mark. -/
theorem test_latch_above_mark :
    (next? (exec (.latchFifo .fifo1 3) fifo17)).map
      (fun t => (t.audio.latch.one.toInt, t.fifos.one.length, t.out)) = some (3, 17, []) := by decide

/-- The channel of G1 and G11 with the given volume gate, ratio and shift. -/
def gen (dac : Bool) (r : BitVec 3) (s : BitVec 4) : State :=
  chan (fun n => { n with lfsr := 0x4000, dacEnable := dac, ratio := r, shift := s })
    (fun q => { q with env := { q.env with currentVolume := 10 } })

def generated (s : State) : Option (BitVec 15 × Int × Nat × Option Event) :=
  (next? (exec .evGenerate s)).map
    (fun t => (t.noise.lfsr, t.noise.sample, t.noise.skipCount, t.sched.pending.getLast?))

/-- G1, both shifts: the deadline moves by 1024, or by 512 with a skip count of 1. -/
theorem test_generate :
    generated (gen true 1 4) = some (0x2000, -80, 0, some ⟨.generate, 14680064 + 1024, 3⟩) ∧
    generated (gen true 1 2) = some (0x2000, -80, 1, some ⟨.generate, 14680064 + 512, 3⟩) := by
  decide +kernel

/-- G11: the DAC gate. G10: the length gate. -/
theorem test_generate_gates :
    generated (gen false 7 0) = some (0x2000, 0, 0, some ⟨.generate, 14680064 + 512, 3⟩) ∧
    generated
        (chan (fun n => { n with lfsr := 0x1234, lengthEnable := true, skipCount := 7, sample := 40 })
          id) =
      some (0x1234, 0, 7, some ⟨.generate, 14680064 + 14680064, 3⟩) := by
  decide +kernel

/-- Q3, Q4: the length clock. -/
theorem test_length_clock :
    (next? (exec .evLengthClock
      (chan (fun n => { n with lengthEnable := true }) (fun q => { q with length := 1 })))).map
        (fun t => t.seq.length) = some 0 ∧
    (next? (exec .evLengthClock (chan id (fun q => { q with length := 5 })))).map
        (fun t => t.seq.length) = some 5 := by decide

/-- Q5, its second clock, and Q6. -/
theorem test_envelope_clock :
    clockEnvelope ⟨0, 0, 2, 1, true, 1⟩ = ⟨0, 0, 2, 0, true, 2⟩ ∧
    clockEnvelope ⟨0, 1, 1, 15, true, 1⟩ = ⟨0, 1, 1, 15, false, 1⟩ := by decide

/-- Q8, and Q7: timer 0 with a new divider steps; divider 0 freezes. -/
theorem test_envelope_clock_corners :
    clockEnvelope ⟨0, 0, 4, 9, true, 0⟩ = ⟨0, 0, 4, 8, true, 4⟩ ∧
    clockEnvelope ⟨0, 0, 0, 9, true, 3⟩ = ⟨0, 0, 0, 9, true, 3⟩ := by decide

/-- Q10: the eighth `SEQ` clocks the envelope and wraps the step; the first clocks the length. -/
theorem test_seq :
    (next? (exec .evSeq
      (chan id (fun q => { q with
        fsStep := 7, env := ⟨0, 1, 1, 4, true, 1⟩ })))).map
        (fun t => (t.seq.fsStep, t.seq.env.currentVolume, t.sched.pending.getLast?)) =
      some (0, 5, some ⟨.seq, 65536, 3⟩) ∧
    (next? (exec .evSeq
      (chan (fun n => { n with lengthEnable := true }) (fun q => { q with length := 9 })))).map
        (fun t => (t.seq.fsStep, t.seq.length)) = some (1, 8) := by decide +kernel

/-- T1: `fifo_latch = (64, -32)`, `Q = (40, -40)`, sample 24. -/
def t1 : State :=
  { base with
    noise := { base.noise with sample := 24 }
    audio := { base.audio with latch := ⟨64, 0xE0⟩ }
    params := { tp with squares := some ⟨40, 0xD8⟩ } }

/-- T1: 152/512 is 19/64, -40/512 is -5/64. -/
theorem test_tick :
    (next? (exec .evTick t1)).map (fun t => (t.rb, t.sched.pending.getLast?)) =
      some ([⟨mkRat 19 64, mkRat (-5) 64⟩], some ⟨.tick, 1024, 3⟩) := by decide +kernel

/-- T4, at a host rate where `IDENTITY` is defined after it: a resolution change reconfigures the
resampler and re-arms 64 cycles later. -/
theorem test_tick_reconfigures :
    (next? (exec .evTick
      { base with
        audio := { base.audio with resolution := 3 }, params := { tp with hostRate := 262144 } })).map
      (fun t => (t.rs.inRate, t.audio.resolutionOld, t.sched.pending.getLast?)) =
      some (262144, 3, some ⟨.tick, 576, 3⟩) := by decide +kernel

def fa : Frame := ⟨mkRat 1 2, mkRat (-1) 2⟩
def fb : Frame := ⟨mkRat 1 4, 0⟩
def fc : Frame := ⟨mkRat (-1) 4, 1⟩

/-- `base` with a ring buffer. -/
def ring (rb : List Frame) : State := { base with rb := rb }

/-- H1 and H4. -/
theorem test_pull :
    (next? (exec (.hostPull 4) (ring [fa, fb]))).map (fun t => (t.out, t.rb)) =
      some ([(0, .hostBuffer [0x00, 0x40, 0x00, 0xC0])], [fb]) ∧
    (next? (exec (.hostPull 16) (ring [fa, fb, fc]))).map (fun t => (t.out, t.rb)) =
      some ([(0, .hostBuffer
        [0x00, 0x40, 0x00, 0xC0, 0x00, 0x20, 0x00, 0x00, 0x00, 0xE0, 0xFF, 0x7F,
         0x00, 0x40, 0x00, 0xC0])], [fa, fb, fc]) := by decide

/-- `base` at HOST's turn, with a running pull that has made `fa`. -/
def running (path : PullPath) (more index : Nat) (rb : List Frame) : State :=
  { ring rb with turn := .host, pull := some ⟨path, more, 3, index, [fa]⟩ }

/-- R312, R313: one operation of a running pull. The underrun path wraps at the snapshot, 3, though a
fourth frame has come. -/
theorem test_host_step :
    (next? (step (running .reading 1 0 [fb, fc]))).map (fun t => (t.rb, t.out, t.pull)) =
      some ([fc], [], some ⟨.reading, 0, 3, 1, [fa, fb]⟩) ∧
    (next? (step (running .peeking 1 2 [fa, fb, fc, fb]))).map (fun t => (t.rb.length, t.pull)) =
      some (4, some ⟨.peeking, 0, 3, 0, [fa, fc]⟩) := by decide

/-- H1's bytes and then H4's, from the last operation of a pull: `fa` and then `fb`. -/
theorem test_host_last_step :
    (next? (step (running .reading 0 0 [fb, fc]))).map (fun t => (t.rb, t.out, t.pull)) =
      some ([fc], [(0, .hostBuffer [0x00, 0x40, 0x00, 0xC0, 0x00, 0x20, 0x00, 0x00])], none) := by
  decide

/-- R310, R318: the snapshot selects the path, where 2 frames meet a ring buffer of 4, of 3, of none. -/
theorem test_begin_pull :
    ((ring [fa, fb, fc, fa]).beginPull 2).pull = some ⟨.reading, 1, 4, 0, []⟩ ∧
    ((ring [fa, fb, fc]).beginPull 2).pull = some ⟨.peeking, 1, 3, 0, []⟩ ∧
    (base.beginPull 2).out = [(0, .hostBuffer (List.replicate 8 0))] := by decide

/-- R319: a reset lets the running pull end. -/
theorem test_reset_ends_pull :
    (next? (exec .reset (running .reading 0 0 [fb, fc]))).map (fun t => (t.rb, t.pull, t.out)) =
      some ([], none,
        [(0, .hostBuffer [0x00, 0x40, 0x00, 0xC0, 0x00, 0x20, 0x00, 0x00]),
         (0, .resetStatus .ok)]) := by decide

/-- R95: a read of an empty ring buffer and a peek past its end, in HOST's step and at a reset. -/
theorem test_ring_contract :
    refusal? (step (running .reading 0 0 [])) = some .ringContract ∧
    refusal? (step (running .peeking 0 2 [fa, fb])) = some .ringContract ∧
    refusal? (exec .reset (running .reading 2 0 [fb, fc])) = some .ringContract := by decide

/-- H8, H9. -/
theorem test_conv :
    conv (mkRat 628 512) = 32767 ∧ conv (mkRat (-632) 512) = -32768 ∧ conv (mkRat 1 512) = 64 ∧
    conv (mkRat (-1) 2) = -16384 ∧ conv (mkRat 3 65534) = 2 ∧ conv (-1) = -32767 := by decide

/-- Z1: `RESET` at cycle 1000 with `E.next_reg = 7`. -/
theorem test_reset :
    (next? (exec .reset { base with sched := { base.sched with now := 1000, nextReg := 7 } })).map
      State.sched =
      some ⟨1000, [⟨.tick, 1512, 7⟩, ⟨.generate, 14681064, 8⟩, ⟨.seq, 33768, 9⟩], 10⟩ := by decide

/-- Z4: a failed open. -/
theorem test_reset_failed_open :
    (next? (exec .reset { base with params := { tp with openResult := some false } })).map
      (fun t => (t.audio.deviceOk, t.out)) =
      some (false, [(0, .resetStatus .audioDeviceUnavailable)]) := by decide

/-! ### The first step after reset runs a placed word -/

theorem test_first_step_transaction :
    step (State.reset.withFetchWord 16 0x14FF) =
      exec (.noiseWr4 0xFF)
        { State.reset with
          draws := 2, turn := Turn.draw 1 } := rfl

theorem test_first_step_event :
    (next? (step (base.withFetchWord 16 0x9000))).map (fun t => (t.sched.now, t.rb.length)) =
      some (0, 1) := by decide

theorem test_first_step_clock :
    (next? (step
      (({ base with seq := { base.seq with length := 3 },
                    noise := { base.noise with lengthEnable := true } } : State).withFetchWord 16
        0xB000))).map (fun t => t.seq.length) = some 2 := by decide

/-! ### Witnesses: for each statement with hypotheses, data that meet them together -/

theorem witness_DecodeEncodedInstruction :
    (Instr.latchFifo .fifo1 255).wellFormed = true ∧ (Instr.hostPull 4095).wellFormed = true := by
  decide

theorem witness_EncodeDecodedWord : decode 0x31FF = .ok (.latchFifo .fifo1 255) := by decide

theorem witness_DecodingFollowsTheOpcodeRows :
    decode 0x2FFF = .ok (.biasWr 0x3FF 3) ∧
    (0x2FFF : TxWord) &&& rowMask (.biasWr 0 0) = rowMatch (.biasWr 0 0) := by decide

/-- Each clause of `ReservedWordsAreRejected` at the boundary values of its range. -/
theorem witness_ReservedWordsAreRejected :
    decode 0x6000 = .error .reservedPort ∧ decode 0x7FFF = .error .reservedPort ∧
    decode 0xD000 = .error .reservedPort ∧ decode 0xFFFF = .error .reservedPort ∧
    decode 0x0800 = .error .reservedBits ∧ decode 0x0001 = .error .reservedBits ∧
    decode 0x1800 = .error .reservedBits ∧ decode 0x17FF = .ok (.noiseWr7 0xFF) ∧
    decode 0x3200 = .error .reservedBits ∧ decode 0x31FF = .ok (.latchFifo .fifo1 255) ∧
    decode 0x5001 = .error .reservedBits ∧ decode 0x8FFF = .error .reservedBits ∧
    decode 0xC001 = .error .reservedBits ∧ decode 0xC000 = .ok .evEnvelopeClock := by decide

theorem witness_WrittenBytesReadBack :
    (∃ t, exec (.noiseWr1 0xFF) base = .next t) ∧ (∃ t, exec (.noiseWr4 0) base = .next t) ∧
    ∃ t, exec (.noiseWr5 0xFF) base = .next t := ⟨⟨_, rfl⟩, ⟨_, rfl⟩, _, rfl⟩

/-- Every clause of `ZombieAdjustsVolume` at volumes 0 and 15: the table R179 has the values. -/
theorem witness_ZombieAdjustsVolume :
    zombieVolume ⟨0, 0, 0, 0, true, 0⟩ 0 = 1 ∧ zombieVolume ⟨0, 0, 0, 0, true, 0⟩ 1 = 15 ∧
    zombieVolume ⟨0, 0, 3, 0, true, 0⟩ 0 = 2 ∧ zombieVolume ⟨0, 0, 3, 0, true, 0⟩ 1 = 14 ∧
    zombieVolume ⟨0, 1, 3, 0, true, 0⟩ 1 = 0 ∧ zombieVolume ⟨0, 1, 3, 0, true, 0⟩ 0 = 0 := by decide

/-- `TriggerRestartsTheChannel` on both sides of bit 7. -/
theorem witness_TriggerRestartsTheChannel :
    ¬128 ≤ (0x7F : Byte).toNat ∧ 128 ≤ (0x80 : Byte).toNat := by decide

theorem witness_WindowTransactionsTouchOnlyTheChannel :
    windowTransaction .noiseRd0 = true ∧ windowTransaction (.noiseWr7 0xFF) = true := by decide

/-- `LatchDrainsOldestBytes`: no drain, the last byte, and one drain more than there are bytes. -/
theorem witness_LatchDrainsOldestBytes :
    (next? (exec (.latchFifo .fifo0 0) fifo17)).map (fun t => (t.out, t.audio.latch)) =
      some ([], ⟨0, 0⟩) ∧
    (next? (exec (.latchFifo .fifo0 17) fifo17)).map (fun t => (t.fifos.zero, t.out.length)) =
      some ([], 17) ∧
    (next? (exec (.latchFifo .fifo0 18) fifo17)).map (fun t => (t.fifos.zero, t.out.length)) =
      some ([], 18) := by decide +kernel

theorem witness_TickReconfiguresOnChange :
    base.pullInContract ∧ (running .reading 1 0 [fb, fc]).pullInContract ∧
    (∃ e ∈ base.sched.pending, e.kind = .tick) ∧ base.audio.resolution = base.audio.resolutionOld ∧
    (next? (exec (.biasWr 0 3) base)).map
      (fun t => decide (t.audio.resolution ≠ t.audio.resolutionOld)) = some true := by decide

/-- `TickPushesExactMix`, with no step of HOST and with one, with `IDENTITY` and with the open kernel,
with room in the ring buffer and with it full. -/
theorem witness_TickPushesExactMix :
    earliest (t1.eventsOf .tick) = some ⟨.tick, 512, 0⟩ ∧ t1.pullInContract ∧ t1.params.resampler = .identity ∧
    t1.hostEnabled = false ∧ (running .reading 0 0 [fa]).hostEnabled = true ∧
    State.reset.params.resampler = .anyKernel ∧
    t1.rs.inRate = t1.rs.outRate ∧ t1.audio.resolution = t1.audio.resolutionOld ∧
    t1.rb.length < t1.params.ringCapacity ∧
    ¬(ring [fa, fa, fa, fa]).rb.length < (ring [fa, fa, fa, fa]).params.ringCapacity := by decide

/-- `LfsrStepShiftsAndFeedsBack`: an odd and an even state (vectors G2, G6). -/
theorem witness_LfsrStepShiftsAndFeedsBack :
    (0x0001 : BitVec 15).toNat % 2 = 1 ∧ lfsrStep 0 0x0001 = (8, 0x6000) ∧
    (0x4000 : BitVec 15).toNat % 2 = 0 ∧ lfsrStep 0 0x4000 = (-8, 0x2000) := by decide

/-- `GenerateSynthesizes`, by either premise on the length; `GenerateMutesExpiredChannel` where both
fail; `ZeroLfsrStaysZero`. -/
theorem witness_Generate :
    (∃ e ∈ base.sched.pending, e.kind = .generate) ∧ base.noise.lengthEnable = false ∧
    (∃ t, exec (.noiseWr5 0xC0) base = .next t ∧ t.noise.lengthEnable = true ∧ 0 < t.seq.length) ∧
    (∃ t, exec (.noiseWr5 0x40) base = .next t ∧ t.noise.lengthEnable = true ∧ t.seq.length = 0 ∧
      ∃ e ∈ t.sched.pending, e.kind = .generate) ∧
    ∃ t, exec (.noiseWr1 0xF0) base = .next t ∧ t.noise.lfsr = 0 ∧ t.noise.dacEnable = true ∧
      t.noise.lengthEnable = false :=
  ⟨by decide, by decide, ⟨_, rfl, by decide⟩, ⟨_, rfl, by decide⟩, ⟨_, rfl, by decide⟩⟩

/-- `GenerateTimingFollowsFrequency`: an interval below the mixer's, equal to it, and above it. -/
theorem witness_GenerateTimingFollowsFrequency :
    earliest ((gen true 1 2).eventsOf .generate) = some ⟨.generate, 14680064, 1⟩ ∧
    (gen true 1 2).noise.lengthEnable = false ∧
    (generated (gen true 1 3)).map (fun p => (p.2.2.1, p.2.2.2)) =
      some (0, some ⟨.generate, 14680064 + 512, 3⟩) ∧
    (generated (gen true 0 0)).map (fun p => (p.2.2.1, p.2.2.2)) =
      some (15, some ⟨.generate, 14680064 + 512, 3⟩) ∧
    (generated (gen true 7 15)).map (fun p => (p.2.2.1, p.2.2.2)) =
      some (0, some ⟨.generate, 14680064 + 14680064, 3⟩) := by decide +kernel

theorem witness_GenerateSilencesDisabledDac :
    ∃ t, exec .evGenerate (gen false 7 0) = .next t ∧ t.noise.dacEnable = false :=
  ⟨_, rfl, by decide⟩

/-- The LFSR statements: the smallest and the largest state of each range. -/
theorem witness_LfsrPeriods :
    (1 : BitVec 15) ≠ 0 ∧ (0x7FFF : BitVec 15) ≠ 0 ∧ (0x7F : BitVec 15) ≠ 0 ∧
    (0x7F : BitVec 15).toNat < 128 ∧ (lfsrSkip 1 8 0x7FFF).toNat < 128 := by decide

theorem witness_FrameSequencerClocks :
    (∃ e ∈ base.sched.pending, e.kind = .seq) ∧ base.seq.fsStep.toNat ≠ 7 ∧
    (chan id (fun q => { q with fsStep := 7 })).seq.fsStep.toNat = 7 := by decide

/-- The pull statements where they meet: 2 frames against a ring buffer of 4, of 3 and of none. -/
theorem witness_Pulls :
    base.audio.deviceOk = true ∧ 8 % 4 = 0 ∧ base.pull = none ∧
    2 * (8 / 4) ≤ (ring [fa, fb, fc, fa]).rb.length ∧
    0 < (ring [fa, fb, fc]).rb.length ∧ (ring [fa, fb, fc]).rb.length < 2 * (8 / 4) ∧
    base.rb = [] := by decide

/-- `PullRefusals`: H7, H10. -/
theorem witness_PullRefusals :
    refusal? (exec (.hostPull 6) base) = some .hostBufferLength ∧
    refusal? (exec (.hostPull 6) { base with audio := { base.audio with deviceOk := false } }) =
      some .noDevice := by decide

/-- `RunningPullEndsFirst`, `HostStepIsOneRingOperation`, `PullOutputIsFixedAtItsSnapshot` and
`RingContractIsKept` (its other clauses have `test_ring_contract`): a pull on either path with the last frame or the last index it may have, and one
not begun. -/
theorem witness_HostSteps :
    (⟨.reading, 1, 3, 0, [fa]⟩ : Pull).inContract [fb, fc] ∧
    (⟨.peeking, 1, 3, 2, [fa]⟩ : Pull).inContract [fa, fb, fc] ∧
    (running .reading 1 0 [fb, fc]).hostMoves = true ∧
    (∃ t, step (running .reading 1 0 [fb, fc]) = .next t) ∧
    ({ base with turn := .host, params := { tp with hostPulls := .anyPulls } } : State).hostMoves =
      true :=
  ⟨by decide, by decide, by decide, ⟨_, rfl⟩, by decide⟩

theorem witness_Resets :
    base.pullInContract ∧ ∃ t u, exec .reset base = .next t ∧ exec .reset t = .next u ∧
      base.params.openResult = some true :=
  ⟨by decide, _, _, rfl, rfl, rfl⟩

theorem witness_InitialStateIsAReset :
    ∃ s t, s.sched.now = 0 ∧ s.sched.nextReg = 0 ∧ s.params = State.reset.params ∧
      exec .reset s = .next t :=
  ⟨{ State.reset with sched := ⟨0, [], 0⟩ }, _, rfl, rfl, rfl, rfl⟩

/-- Its premise on the resampler. -/
theorem witness_InitialStateIsAReset_resampler :
    ∃ s : State, s.sched.now = 0 ∧ s.sched.nextReg = 0 ∧ s.params = State.reset.params ∧
      s.rs = ⟨Config.firstInRate, Config.firstOutRate, Config.firstHistory⟩ :=
  ⟨{ State.reset with sched := ⟨0, [], 0⟩, rs := ⟨_, _, _⟩ }, rfl, rfl, rfl, rfl⟩

/-- `EnabledFlagWriters`: a trigger that enables, and each of the three that disable. -/
theorem witness_EnabledFlagWriters :
    (next? (exec (.noiseWr5 0x80) (gen true 0 0))).map (fun t => t.noise.enabled) = some true ∧
    (next? (exec (.noiseWr1 0x07) (chan (fun n => { n with enabled := true }) id))).map
      (fun t => t.noise.enabled) = some false ∧
    (next? (exec .evGenerate
      (chan (fun n => { n with enabled := true, lengthEnable := true }) id))).map
      (fun t => t.noise.enabled) = some false ∧
    (next? (exec .reset (chan (fun n => { n with enabled := true }) id))).map
      (fun t => t.noise.enabled) = some false := by decide

/-- `StateIsWrittenOnlyByItsWriters`, `EventsRearmAtDeadlinePlusPeriod` and
`LatenessReachesOnlyTheClock`: an event of each kind is pending and runs. -/
theorem witness_Events :
    base.pullInContract ∧
    earliest (base.eventsOf .generate) = some ⟨.generate, 14680064, 1⟩ ∧
    earliest (base.eventsOf .tick) = some ⟨.tick, 512, 0⟩ ∧
    earliest (base.eventsOf .seq) = some ⟨.seq, 32768, 2⟩ ∧
    (∃ t, exec EventKind.tick.instr base = .next t) ∧
    base.offClock =
      ({ ({ base with sched := { base.sched with now := 9 } } : State) with
        params := { base.params with lateness := .punctual } } : State).offClock :=
  ⟨by decide, by decide, by decide, by decide, ⟨_, rfl⟩, rfl⟩

/-- `base` under `EXTERNAL`, at the turn of the frame sequencer. -/
def clocked (p : List (Nat × TxWord)) : State :=
  { listed p with
    turn := .frameSequencer
    params := { tp with seqSchedule := .external, externalClocks := .anyClocks } }

/-- R259: a clock that no program lists comes under `EXTERNAL` and at no other schedule. -/
theorem test_unlisted_clock :
    (clocked [(9, 0x5000)]).nextMove = .clock (clocked [(9, 0x5000)]).drawnClock ∧
    ({ listed [] with turn := .frameSequencer } : State).nextMove = .fire .tick := ⟨rfl, by decide⟩

/-- The clauses of `StepRunsTheListedInstruction` on the external frame sequencer, with nothing listed, with
a pair listed for now, and with one that is late already. -/
theorem witness_StepRunsTheListedInstruction_clock :
    (clocked []).hostMoves = false ∧ (clocked []).clockMoves = true ∧
    (clocked [(0, 0x5000)]).clockMoves = true ∧
    ({ clocked [(3, 0)] with sched := { base.sched with now := 4 } } : State).clockMoves = false := by
  decide

theorem witness_StepRunsTheListedInstruction :
    (listed [(511, 0x15C0)]).hostMoves = false ∧ (listed [(511, 0x15C0)]).clockMoves = false ∧
    (listed [(511, 0x15C0)]).sched.now ≤ 511 ∧
    (∀ e ∈ (listed [(511, 0x15C0)]).sched.pending, 511 < e.deadline) ∧
    decode 0x15C0 = .ok (.noiseWr5 0xC0) ∧ mayIssue .fs512 (.noiseWr5 0xC0) = true ∧
    mayIssue .external .evLengthClock = true := by decide

/-- `StepFiresTheEarliestEvent`, with nothing listed and with a pair one cycle after the event. -/
theorem witness_StepFiresTheEarliestEvent :
    base.hostMoves = false ∧ base.clockMoves = false ∧ base.sched.pending ≠ [] ∧ base.program = [] ∧ base.params.tieOrder = .regFifo ∧
    (listed [(513, 0)]).sched.now ≤ 513 ∧
    ∃ e ∈ (listed [(513, 0)]).sched.pending, e.deadline < 513 := by decide

/-- `EventAtTransactionCycle`: under `EVENTS_FIRST` the event at cycle 512 fires before the word. -/
theorem witness_EventAtTransactionCycle :
    (listed [(512, 0x5000)]).hostMoves = false ∧ (listed [(512, 0x5000)]).clockMoves = false ∧
    (listed [(512, 0x5000)]).sched.now ≤ 512 ∧
    (∃ e ∈ (listed [(512, 0x5000)]).sched.pending, e.deadline = 512) ∧
    (∀ e ∈ (listed [(512, 0x5000)]).sched.pending, 512 ≤ e.deadline) ∧
    (next? (step (listed [(512, 0x5000)]))).map (fun t => t.program.length) = some 1 := by decide

/-- `ListedWordsRefused`: each clause. -/
theorem witness_ListedWordsRefused :
    (listed [(3, 0)]).hostMoves = false ∧ (listed [(3, 0)]).clockMoves = false ∧
    refusal? (step { listed [(3, 0)] with sched := { base.sched with now := 4 } }) =
      some .programOrder ∧
    (∀ e ∈ base.sched.pending, 4 < e.deadline) ∧
    refusal? (step (listed [(4, 0x6000)])) = some .reservedPort ∧
    refusal? (step (listed [(4, 0x0800)])) = some .reservedBits ∧
    refusal? (step (listed [(4, 0xA000)])) = some .internalEvent ∧
    refusal? (step (listed [(4, 0xC000)])) = some .internalEvent := by decide

theorem witness_base_invariant : Invariant base where
  dac := by decide
  skip := by decide
  length := by decide
  generatePending := by decide
  tickPending := by decide
  seqPending := by decide
  sampleLow := by decide
  sampleHigh := by decide
  sampleEight := by decide
  regsRise := by decide
  regsBelow := by decide
  ring := by decide
  pullDevice := by decide
  pullContract := by decide
  inRate := by decide
  outRate := by decide
  hostRate := by decide
  ringCapacity := by decide

/-- The statements about every step: a state of the invariant with nothing listed, and its step. -/
theorem witness_Steps : Invariant base ∧ base.program = [] ∧ ∃ t, step base = .next t :=
  ⟨witness_base_invariant, rfl, _, rfl⟩

/-- `TimeNeverRunsBack`: a step with a pair listed, and one of HOST before a pair. -/
theorem witness_TimeNeverRunsBack :
    (∃ t, step (listed [(4, 0x5000)]) = .next t) ∧ (listed [(4, 0x5000)]).hostMoves = false ∧
    ∃ t, step { running .reading 1 0 [fb, fc] with program := [(0, 0x5000)] } = .next t :=
  ⟨⟨_, rfl⟩, by decide, _, rfl⟩

end Sys2Proof.Tests
end

section
/-! PROOF. The register-window reads: what the window holds at each offset, in the arithmetic of the
spec's byte layouts, and that a read gives out that byte and changes nothing else. -/

namespace Sys2Proof.Machine

open Sys2Proof

/-! ### The bytes the registers hold -/

/-- The layout of offsets 1 and 4 (R111, R113): bits 7:4, bit 3 and bits 2:0, side by side. -/
theorem append_fields_eq_or (a : BitVec 3) (b : BitVec 1) (c : BitVec 4) :
    c ++ b ++ a = a.setWidth 8 ||| (b.setWidth 8 <<< 3) ||| (c.setWidth 8 <<< 4) := by
  ext k hk
  simp only [BitVec.getElem_or, BitVec.getElem_shiftLeft, BitVec.getElem_setWidth,
    BitVec.getElem_append]
  interval_cases k <;> simp

theorem append_fields_eq_ofNat (a : BitVec 3) (b : BitVec 1) (c : BitVec 4) :
    (c ++ b ++ a : Byte) = BitVec.ofNat 8 (a.toNat + 8 * b.toNat + 16 * c.toNat) := by
  apply BitVec.eq_of_toNat_eq
  simp only [append_toNat, BitVec.toNat_ofNat]
  omega

theorem envelopeByte_eq_append (e : Envelope) :
    envelopeByte e = (e.initialVolume ++ e.direction ++ e.divider : Byte) :=
  (append_fields_eq_or e.divider e.direction e.initialVolume).symm

theorem frequencyByte_eq_append (n : Noise) :
    frequencyByte n = (n.shift ++ n.width ++ n.ratio : Byte) :=
  (append_fields_eq_or n.ratio n.width n.shift).symm

theorem envelopeByte_eq_ofNat (e : Envelope) :
    envelopeByte e =
      BitVec.ofNat 8 (e.divider.toNat + 8 * e.direction.toNat + 16 * e.initialVolume.toNat) :=
  (envelopeByte_eq_append e).trans (append_fields_eq_ofNat e.divider e.direction e.initialVolume)

theorem frequencyByte_eq_ofNat (n : Noise) :
    frequencyByte n = BitVec.ofNat 8 (n.ratio.toNat + 8 * n.width.toNat + 16 * n.shift.toNat) :=
  (frequencyByte_eq_append n).trans (append_fields_eq_ofNat n.ratio n.width n.shift)

/-! ### The register window, offset by offset -/

@[simp] theorem State.window_zero (s : State) : s.window 0 = 0 := rfl
@[simp] theorem State.window_one (s : State) : s.window 1 = envelopeByte s.seq.env := rfl
@[simp] theorem State.window_two (s : State) : s.window 2 = 0 := rfl
@[simp] theorem State.window_three (s : State) : s.window 3 = 0 := rfl
@[simp] theorem State.window_four (s : State) : s.window 4 = frequencyByte s.noise := rfl
@[simp] theorem State.window_five (s : State) : s.window 5 = controlByte s.noise := rfl
@[simp] theorem State.window_six (s : State) : s.window 6 = 0 := rfl
@[simp] theorem State.window_seven (s : State) : s.window 7 = 0 := rfl

/-! ### The read of an offset -/

theorem exec_noiseRead (o : BitVec 3) (s : State) : exec (noiseRead o) s = .next (s.readWindow o) := by
  fin_cases o <;> rfl

/-- R86, R150: a read records the window's byte as an output and changes nothing else. -/
theorem exec_noiseRead_gives (o : BitVec 3) {s : State} {b : Byte} (h : s.window o = b) :
    exec (noiseRead o) s = .next { s with out := s.out ++ [(s.sched.now, .readData b)] } := by
  rw [exec_noiseRead, State.readWindow, h, State.emit]

/-- Settles O6: each of the eight reads is the read of its offset, whose byte the window lemmas give. -/
theorem windowReadsReturnRegisterBytes : Obligations.WindowReadsReturnRegisterBytes := by
  intro s
  exact ⟨exec_noiseRead_gives 0 s.window_zero,
    exec_noiseRead_gives 1 (s.window_one.trans (envelopeByte_eq_ofNat s.seq.env)),
    exec_noiseRead_gives 2 s.window_two,
    exec_noiseRead_gives 3 s.window_three,
    exec_noiseRead_gives 4 (s.window_four.trans (frequencyByte_eq_ofNat s.noise)),
    exec_noiseRead_gives 5 s.window_five,
    ⟨0, exec_noiseRead_gives 6 s.window_six⟩,
    ⟨0, exec_noiseRead_gives 7 s.window_seven⟩⟩

end Sys2Proof.Machine
end

section
/-! PROOF. The register-window writes that load the length counter (offset 0) or have no effect
(offsets 2, 3, 6 and 7), and the words of the writes. -/

namespace Sys2Proof.Machine

open Sys2Proof

/-! ### The word of a write -/

theorem encode_noiseWrite (o : BitVec 3) (d : Byte) : encode (noiseWrite o d) = writeWord o d := by
  fin_cases o <;> rfl

/-- R125: port 1 in bits 15:12, the offset in bits 10:8 and the byte in bits 7:0. -/
theorem encode_noiseWrite_toNat (o : BitVec 3) (d : Byte) :
    (encode (noiseWrite o d)).toNat = 0x1000 + 0x100 * o.toNat + d.toNat := by
  rw [encode_noiseWrite, writeWord_toNat]

/-! ### The length load -/

theorem lengthLoad_eq_sub_mod (d : Byte) : lengthLoad d = 64 - d.toNat % 64 := by
  rw [lengthLoad, BitVec.extractLsb'_toNat, Nat.shiftRight_zero]

theorem exec_noiseWr0 (d : Byte) (s : State) :
    exec (.noiseWr0 d) s = .next { s with seq := { s.seq with length := lengthLoad d } } := rfl

/-! ### The offsets that hold no register -/

/-- R167, R168, R176, R177: a write to an offset with no register behind it changes nothing. -/
theorem exec_noiseWrite_unused {o : BitVec 3} (h : o = 2 ∨ o = 3 ∨ o = 6 ∨ o = 7) (d : Byte)
    (s : State) : exec (noiseWrite o d) s = .next s := by
  obtain rfl | rfl | rfl | rfl := h <;> rfl

/-! ### The statements -/

/-- Settles O8: the load is `lengthLoad`, whose arithmetic is `lengthLoad_eq_sub_mod`. -/
theorem lengthWriteLoadsCounter : Obligations.LengthWriteLoadsCounter := by
  intro d s
  refine ⟨?_, exec_noiseRead_gives 0 s.window_zero⟩
  rw [exec_noiseWr0, lengthLoad_eq_sub_mod]

/-- Settles O11: the offsets have no register behind them, so a write keeps the state and the window
holds 0; the words are those of port 1. -/
theorem unusedOffsetsIgnoreWrites : Obligations.UnusedOffsetsIgnoreWrites := by
  intro d s
  exact ⟨exec_noiseWrite_unused (o := 2) (by decide) d s,
    exec_noiseWrite_unused (o := 3) (by decide) d s,
    encode_noiseWrite_toNat 2 d,
    encode_noiseWrite_toNat 3 d,
    exec_noiseRead_gives 0 s.window_zero,
    exec_noiseRead_gives 2 s.window_two,
    exec_noiseRead_gives 3 s.window_three⟩

end Sys2Proof.Machine
end

section
/-! PROOF. The register-window writes with an effect on the channel's flags: the envelope write with
zombie mode (offset 1) and the control write with the trigger (offset 5); and that the sixteen
transactions act on the channel and the Sequencer alone. -/

namespace Sys2Proof.Machine

open Sys2Proof

/-! ### The fields of an offset-1 write -/

theorem dividerField_toNat (d : Byte) : (dividerField d).toNat = d.toNat % 8 := by
  rw [dividerField, BitVec.extractLsb'_toNat, Nat.shiftRight_zero]

theorem directionField_toNat (d : Byte) : (directionField d).toNat = d.toNat / 8 % 2 := by
  rw [directionField, BitVec.extractLsb'_toNat, Nat.shiftRight_eq_div_pow]

theorem volumeField_toNat (d : Byte) : (volumeField d).toNat = d.toNat / 16 := by
  rw [volumeField, BitVec.extractLsb'_toNat, Nat.shiftRight_eq_div_pow]
  omega

theorem dividerField_eq_ofNat (d : Byte) : dividerField d = BitVec.ofNat 3 (d.toNat % 8) := by
  rw [← dividerField_toNat, BitVec.ofNat_toNat, BitVec.setWidth_eq]

theorem directionField_eq_ofNat (d : Byte) :
    directionField d = BitVec.ofNat 1 (d.toNat / 8 % 2) := by
  rw [← directionField_toNat, BitVec.ofNat_toNat, BitVec.setWidth_eq]

theorem volumeField_eq_ofNat (d : Byte) : volumeField d = BitVec.ofNat 4 (d.toNat / 16) := by
  rw [← volumeField_toNat, BitVec.ofNat_toNat, BitVec.setWidth_eq]

/-- R163: the DAC is on where one of bits 7:3 is set. -/
theorem dacFlag_eq_decide (d : Byte) : dacFlag d = decide (8 ≤ d.toNat) := by
  have h : d >>> 3 ≠ 0 ↔ 8 ≤ d.toNat := by bv_omega
  rw [dacFlag, decide_eq_decide.mpr h]

/-! ### The envelope write -/

theorem exec_noiseWr1 (d : Byte) (s : State) :
    exec (.noiseWr1 d) s =
      .next
        { s with
          seq := { s.seq with env := writeEnvelope s.seq.env d }
          noise :=
            { s.noise with dacEnable := dacFlag d, enabled := enabledAfterEnvelope s.noise d } } :=
  rfl

/-- R111, R152: offset 1 reads back the byte written to it. -/
theorem envelopeByte_writeEnvelope (e : Envelope) (d : Byte) :
    envelopeByte (writeEnvelope e d) = d := by
  apply BitVec.eq_of_toNat_eq
  simp only [envelopeByte_eq_ofNat, writeEnvelope, dividerField_toNat, directionField_toNat,
    volumeField_toNat, BitVec.toNat_ofNat]
  omega

/-! ### Zombie mode -/

/-- R179, the table of the three adjustments: before the mask of R166 the volume lies between -1 and
17. -/
theorem zombieVolume_toNat (e : Envelope) (dir : BitVec 1) :
    (zombieVolume e dir).toNat =
      if e.divider = 0 ∧ e.active = true then
        if e.direction = dir then (e.currentVolume.toNat + 1) % 16 else 15 - e.currentVolume.toNat
      else if e.direction = 0 then
        if e.direction = dir then (e.currentVolume.toNat + 2) % 16
        else (30 - e.currentVolume.toNat) % 16
      else
        if e.direction = dir then e.currentVolume.toNat else (16 - e.currentVolume.toNat) % 16 := by
  have hcur := e.currentVolume.isLt
  simp only [zombieVolume, BitVec.toNat_ofInt, ne_eq, ite_not]
  by_cases hstep : e.divider = 0 ∧ e.active = true
  · simp only [if_pos hstep]
    split <;> omega
  · simp only [if_neg hstep]
    by_cases hdown : e.direction = 0
    · simp only [if_pos hdown]
      split <;> omega
    · simp only [if_neg hdown]
      split <;> omega

theorem eq_directionField_iff (b : BitVec 1) (d : Byte) :
    b = directionField d ↔ b.toNat = d.toNat / 8 % 2 := by
  rw [BitVec.toNat_eq, directionField_toNat]

/-! ### The control write -/

/-- R171: `length_enable` comes first, so that a trigger acts on the updated state. -/
theorem exec_noiseWr5 (d : Byte) (s : State) :
    exec (.noiseWr5 d) s =
      .next
        (if triggerBit d then
          ({ s with noise := { s.noise with lengthEnable := lengthEnableBit d } } : State).trigger
        else { s with noise := { s.noise with lengthEnable := lengthEnableBit d } }) := rfl

theorem lengthEnableBit_eq_decide (d : Byte) :
    lengthEnableBit d = decide (d.toNat / 64 % 2 = 1) :=
  Nat.testBit_eq_decide_div_mod_eq

@[simp] theorem State.trigger_lengthEnable (s : State) :
    s.trigger.noise.lengthEnable = s.noise.lengthEnable := rfl

/-- R114, R156: offset 5 reads as bit 6 alone. -/
theorem exec_noiseRd5 (s : State) :
    exec .noiseRd5 s =
      .next
        { s with
          out :=
            s.out ++ [(s.sched.now, .readData (if s.noise.lengthEnable then 0x40 else 0x00))] } :=
  exec_noiseRead_gives 5 s.window_five

/-! ### What the sixteen transactions act on -/

theorem windowTransaction_cases {i : Instr} (h : windowTransaction i = true) :
    (∃ o, i = noiseRead o) ∨ ∃ o d, i = noiseWrite o d := by
  cases i with
  | noiseRd0 => exact .inl ⟨0, rfl⟩
  | noiseRd1 => exact .inl ⟨1, rfl⟩
  | noiseRd2 => exact .inl ⟨2, rfl⟩
  | noiseRd3 => exact .inl ⟨3, rfl⟩
  | noiseRd4 => exact .inl ⟨4, rfl⟩
  | noiseRd5 => exact .inl ⟨5, rfl⟩
  | noiseRd6 => exact .inl ⟨6, rfl⟩
  | noiseRd7 => exact .inl ⟨7, rfl⟩
  | noiseWr0 d => exact .inr ⟨0, d, rfl⟩
  | noiseWr1 d => exact .inr ⟨1, d, rfl⟩
  | noiseWr2 d => exact .inr ⟨2, d, rfl⟩
  | noiseWr3 d => exact .inr ⟨3, d, rfl⟩
  | noiseWr4 d => exact .inr ⟨4, d, rfl⟩
  | noiseWr5 d => exact .inr ⟨5, d, rfl⟩
  | noiseWr6 d => exact .inr ⟨6, d, rfl⟩
  | noiseWr7 d => exact .inr ⟨7, d, rfl⟩
  | _ => cases h

/-- A trigger's effect on the noise record (R172 to R175). -/
def triggerNoise (n : Noise) : Noise :=
  { n with enabled := enabledAfterTrigger n, lfsr := lfsrSeed n.width }

/-- `Restart`'s effect on the Sequencer (R245). -/
def restartSequencer (q : Sequencer) : Sequencer :=
  { q with
    length := if q.length = 0 then 64 else q.length
    env :=
      { q.env with timer := q.env.divider, currentVolume := q.env.initialVolume, active := true } }

theorem State.trigger_eq (s : State) :
    s.trigger = { s with noise := triggerNoise s.noise, seq := restartSequencer s.seq } := rfl

/-- A write gives `N` and `S` new values that depend on nothing but the byte and the old value of the
same record, and changes nothing else. -/
theorem exec_noiseWrite_acts (o : BitVec 3) (d : Byte) :
    ∃ (f : Noise → Noise) (g : Sequencer → Sequencer), ∀ s : State,
      exec (noiseWrite o d) s = .next { s with noise := f s.noise, seq := g s.seq } := by
  by_cases hunused : o = 2 ∨ o = 3 ∨ o = 6 ∨ o = 7
  · exact ⟨id, id, exec_noiseWrite_unused hunused d⟩
  obtain rfl | rfl | rfl | rfl : o = 0 ∨ o = 1 ∨ o = 4 ∨ o = 5 := by bv_omega
  · exact ⟨id, fun q => { q with length := lengthLoad d }, exec_noiseWr0 d⟩
  · exact ⟨fun n => { n with dacEnable := dacFlag d, enabled := enabledAfterEnvelope n d },
      fun q => { q with env := writeEnvelope q.env d }, exec_noiseWr1 d⟩
  · exact ⟨fun n => { n with ratio := ratioField d, width := widthField d, shift := shiftField d },
      id, fun _ => rfl⟩
  · by_cases htrigger : triggerBit d = true
    · exact ⟨fun n => triggerNoise { n with lengthEnable := lengthEnableBit d }, restartSequencer,
        fun s => (exec_noiseWr5 d s).trans (by rw [if_pos htrigger, State.trigger_eq])⟩
    · exact ⟨fun n => { n with lengthEnable := lengthEnableBit d }, id,
        fun s => (exec_noiseWr5 d s).trans (by rw [if_neg htrigger, id])⟩

/-! ### The statements -/

/-- Settles O9: the write is `exec_noiseWr1`, its fields and flags by their arithmetic, and the
window's byte is the one written. -/
theorem envelopeWriteSetsFieldsAndFlags : Obligations.EnvelopeWriteSetsFieldsAndFlags := by
  intro d s
  refine ⟨_, zombieVolume s.seq.env (directionField d), exec_noiseWr1 d s, ?_,
    exec_noiseRead_gives 1 (envelopeByte_writeEnvelope s.seq.env d)⟩
  rw [writeEnvelope, enabledAfterEnvelope, dacFlag_eq_decide, dividerField_eq_ofNat,
    directionField_eq_ofNat, volumeField_eq_ofNat]

/-- Settles O10: the write stores `zombieVolume`, whose table is `zombieVolume_toNat`. -/
theorem zombieAdjustsVolume : Obligations.ZombieAdjustsVolume := by
  intro d s
  refine ⟨_, exec_noiseWr1 d s, rfl, ?_⟩
  simp only [← eq_directionField_iff]
  exact zombieVolume_toNat s.seq.env (directionField d)

/-- Settles O14: with the trigger bit and without it, `length_enable` is bit 6, which offset 5 reads
as. -/
theorem controlWriteSetsLengthEnable : Obligations.ControlWriteSetsLengthEnable := by
  intro d s
  simp only [exec_noiseWr5, lengthEnableBit_eq_decide]
  cases triggerBit d with
  | false => exact ⟨_, rfl, .inl rfl, rfl, exec_noiseRd5 _⟩
  | true => exact ⟨_, rfl, .inr rfl, State.trigger_lengthEnable _, exec_noiseRd5 _⟩

/-- Settles O16: a read records a byte of the window, and a write acts on `N` and `S` as
`exec_noiseWrite_acts` says, from every state alike. -/
theorem windowTransactionsTouchOnlyTheChannel :
    Obligations.WindowTransactionsTouchOnlyTheChannel := by
  intro i s h
  obtain ⟨o, rfl⟩ | ⟨o, d, rfl⟩ := windowTransaction_cases h
  · exact ⟨_, exec_noiseRead o s, rfl, rfl, rfl, rfl, rfl, rfl, rfl, rfl, rfl, rfl,
      fun _ _ _ => exec_noiseRead o _⟩
  · obtain ⟨f, g, hwrite⟩ := exec_noiseWrite_acts o d
    exact ⟨_, hwrite s, rfl, rfl, rfl, rfl, rfl, rfl, rfl, rfl, rfl, rfl, fun _ _ _ => hwrite _⟩

end Sys2Proof.Machine
end

section
/-! PROOF. The noise synthesis event: that it fires whenever one is pending, which of its two paths the
length gate selects, and the LFSR's raw output and the skip count in the arithmetic of the spec. -/

namespace Sys2Proof.Machine

open Sys2Proof

/-! ### The firing and the length gate -/

theorem earliest_eventsOf_exists {s : State} {k : EventKind}
    (h : ∃ e ∈ s.sched.pending, e.kind = k) : ∃ e, earliest (s.eventsOf k) = some e := by
  obtain ⟨e, hmem, hkind⟩ := h
  have hin : e ∈ s.eventsOf k := by simp [State.eventsOf, hmem, hkind]
  exact Option.ne_none_iff_exists'.mp
    (mt earliest_eq_none.mp (List.ne_nil_of_mem hin))

/-- R200, R341: the earliest pending `GENERATE` fires, whatever the state. -/
theorem exec_evGenerate {s : State} {e : Event} (h : earliest (s.eventsOf .generate) = some e) :
    exec .evGenerate s =
      .next (generateBody (s.firingCycle e.deadline - e.deadline) (s.beginFiring e)) :=
  fire_of_some h

/-- R201: the length gate passes where `length_enable` is off or the counter has not run out. -/
theorem lengthExpired_eq_false_iff (n : Noise) (q : Sequencer) :
    lengthExpired n q = false ↔ n.lengthEnable = false ∨ 0 < q.length := by
  rw [lengthExpired, Bool.and_eq_false_iff, decide_eq_false_iff_not, Nat.pos_iff_ne_zero]

theorem generateBody_of_not_expired {s : State} (late : Nat)
    (h : lengthExpired s.noise s.seq = false) : generateBody late s = synthesizeBody late s := by
  rw [generateBody, h, if_neg Bool.false_ne_true]

/-! ### The LFSR -/

/-- R203: the raw output is the sign that the low bit of the state selects. -/
theorem lfsrStep_fst (w : BitVec 1) (x : BitVec 15) :
    (lfsrStep w x).1 = if x.toNat % 2 = 1 then 8 else -8 := by
  have hbit : x.getLsbD 0 = true ↔ x.toNat % 2 = 1 := by
    rw [BitVec.getLsbD, Nat.testBit_zero, decide_eq_true_iff]
  simp only [lfsrStep, ← hbit]
  split <;> rfl

/-- R206: the observed step and the skipped ones are `1 + n` steps in a row. -/
theorem lfsrSkip_one_add (w : BitVec 1) (n : Nat) (x : BitVec 15) :
    lfsrSkip w (1 + n) x = lfsrSkip w n (lfsrStep w x).2 := by
  rw [Nat.add_comm, lfsrSkip]

/-! ### The sample and the skip count -/

/-- R204, R205. -/
theorem scaledSample_lfsrStep (s : State) :
    scaledSample (lfsrStep s.noise.width s.noise.lfsr).1 s =
      if s.noise.dacEnable then
        (if s.noise.lfsr.toNat % 2 = 1 then 8 else -8) * (s.seq.env.currentVolume.toNat : Int)
      else 0 := by
  rw [scaledSample, lfsrStep_fst]

/-- R213: where the synthesis interval is not below the mixer's, the quotient is at most 1, so that the
two cases are one formula. -/
theorem skipAndPeriod_skip (n m : Nat) : (skipAndPeriod n m).1 = m / n - 1 := by
  rw [skipAndPeriod]
  split
  · rfl
  · next h =>
    have hquot : m / n ≤ 1 := Nat.div_le_of_le_mul (by omega)
    omega

theorem nextTiming_skip (s : State) :
    (nextTiming s).1 =
      512 / 2 ^ s.audio.resolution.toNat / interval s.noise.ratio s.noise.shift - 1 := by
  rw [nextTiming, skipAndPeriod_skip, mixerInterval, Nat.shiftRight_eq_div_pow]

/-! ### The synthesis path -/

theorem synthesizeBody_noise (late : Nat) (s : State) :
    (synthesizeBody late s).noise =
      { s.noise with
        lfsr := lfsrSkip s.noise.width (1 + s.noise.skipCount) s.noise.lfsr
        sample :=
          if s.noise.dacEnable then
            (if s.noise.lfsr.toNat % 2 = 1 then 8 else -8) * (s.seq.env.currentVolume.toNat : Int)
          else 0
        skipCount :=
          512 / 2 ^ s.audio.resolution.toNat / interval s.noise.ratio s.noise.shift - 1 } := by
  rw [lfsrSkip_one_add, ← scaledSample_lfsrStep, ← nextTiming_skip, synthesizeBody,
    State.schedule_noise]

/-- R216, R340: the re-arm is the last entry of the pending set, under the next registration number. -/
theorem synthesizeBody_rearms (late : Nat) (s : State) :
    ∃ e ∈ (synthesizeBody late s).sched.pending,
      e.kind = .generate ∧ e.reg = s.sched.nextReg :=
  ⟨_, List.mem_concat_self, rfl, rfl⟩

/-! ### The statement -/

/-- Settles O24: the earliest pending `GENERATE` fires, its length gate passes, and the synthesis path
gives `N` the values of `synthesizeBody_noise`, re-arms, and touches nothing outside `N` and the
scheduler. -/
theorem generateSynthesizes : Obligations.GenerateSynthesizes := by
  intro s hpending hgate
  obtain ⟨e, he⟩ := earliest_eventsOf_exists hpending
  have hkind : e.kind = .generate := (earliest_eventsOf_mem he).2
  have hpass : lengthExpired (s.beginFiring e).noise (s.beginFiring e).seq = false :=
    (lengthExpired_eq_false_iff s.noise s.seq).mpr hgate
  have hout : (s.beginFiring e).out = s.out ++ [(s.firingCycle e.deadline, .trace 0x8000)] := by
    rw [State.beginFiring_out, hkind, EventKind.traceWord]
  refine ⟨_, exec_evGenerate he, ?_⟩
  rw [generateBody_of_not_expired _ hpass]
  exact ⟨synthesizeBody_noise _ _, synthesizeBody_rearms _ _,
    rfl, rfl, rfl, rfl, rfl, rfl, rfl, rfl, rfl, hout⟩

end Sys2Proof.Machine
end

section
/-! PROOF. The mixing event: that it completes within the ring buffer's contract, the resampler it
pushes into, and what its push adds to the ring buffer (spec 43_audio_unit.md R280, R281, R286). -/

namespace Sys2Proof.Machine

open Sys2Proof

theorem generationRate_eq (r : BitVec 2) : generationRate r = 32768 * 2 ^ r.toNat :=
  Nat.shiftLeft_eq 32768 r.toNat

/-- R280, R341: within the ring buffer's contract the earliest pending `TICK` fires, and ends as its push
and its re-arm leave the state. -/
theorem exec_evTick_of_contract {s : State} {e : Event} (hc : s.pullInContract)
    (h : earliest (s.eventsOf .tick) = some e) :
    ∃ u, (s.beginFiring e).retune.pushFrame (s.beginFiring e).mix = .ok u ∧
      exec .evTick s =
        .next
          (u.drawn.schedule .tick
            ((mixerInterval s.audio.resolution : Int) -
              (s.firingCycle e.deadline - e.deadline : Nat))) := by
  have hcr : (s.beginFiring e).retune.pullInContract := by
    rw [State.pullInContract, State.retune_pull, State.retune_rb]
    exact hc
  obtain ⟨u, hu, -⟩ := pushFrame_of_contract hcr (s.beginFiring e).mix
  refine ⟨u, hu, (fireOrRefuse_of_some h).trans ?_⟩
  rw [tickBody, hu]
  rfl

/-- R91: the producer's writes only append. -/
theorem prefix_foldl_rbWrite (c : Nat) (fs : List Frame) (rb : List Frame) :
    rb <+: fs.foldl (rbWrite c) rb := by
  induction fs generalizing rb with
  | nil => exact List.prefix_refl rb
  | cons f fs ih =>
    have hwrite : rb <+: rbWrite c rb f := by
      rw [rbWrite]
      split
      · exact List.prefix_append rb [f]
      · exact List.prefix_refl rb
    exact hwrite.trans (ih (rbWrite c rb f))

/-- Where HOST has no step, a push keeps the queued frames, the running pull and the outputs. -/
theorem pushFrame_frame_of_disabled {s u : State} {f : Frame} (hd : s.hostEnabled = false)
    (h : s.pushFrame f = .ok u) : s.rb <+: u.rb ∧ u.pull = s.pull ∧ u.out = s.out := by
  rw [pushFrame_of_disabled hd] at h
  cases h
  exact ⟨prefix_foldl_rbWrite _ _ _, rfl, rfl⟩

/-- Settles O19: the resampler is that of `retune_rs`, and after it the push touches only the resampler's
history and what HOST's steps touch. -/
theorem tickReconfiguresOnChange : Obligations.TickReconfiguresOnChange := by
  intro s hc hpending
  obtain ⟨e, he⟩ := earliest_eventsOf_exists hpending
  have hkind : e.kind = .tick := (earliest_eventsOf_mem he).2
  obtain ⟨u, hu, hexec⟩ := exec_evTick_of_contract hc he
  have hpush := pushFrame_hostOnly hu
  have hrs := retune_rs (s.beginFiring e)
  have hrsu : u.rs =
      ((s.beginFiring e).retune.rs.push s.params.resampler (s.beginFiring e).mix).1 := by
    simpa using hpush.rs
  refine ⟨_, (s.beginFiring e).retune.rs, (s.beginFiring e).mix, hexec, ?_, ?_, hrsu,
    (congrArg Resampler.inRate hrsu :), (congrArg Resampler.outRate hrsu :),
    hpush.audio.trans (retune_audio _), ?_, ?_, ?_, ?_, ?_, ?_, ?_⟩
  · intro hne
    rw [hrs, State.beginFiring_audio, if_neg hne]
    exact ⟨generationRate_eq _, rfl⟩
  · intro heq
    rw [hrs, State.beginFiring_audio, if_pos heq, State.beginFiring_rs]
  · simpa using hpush.noise
  · simpa using hpush.seq
  · simpa using hpush.fifos
  · simpa using hpush.program
  · simpa using hpush.turn
  · simpa using hpush.params
  · intro hd
    have hnow : u.sched.now = s.firingCycle e.deadline := by simp [hpush.sched]
    have hdr : (s.beginFiring e).retune.hostEnabled = false := (retune_hostEnabled _).trans hd
    obtain ⟨hrb, hpull, hout⟩ := pushFrame_frame_of_disabled hdr hu
    exact ⟨by simpa using hrb, by simpa using hpull,
      by simp [hout, hnow, hkind, EventKind.traceWord]⟩

end Sys2Proof.Machine
end

section
/-! PROOF. The bias level is read by no rule (spec 43_audio_unit.md R287): every operation commutes with
a change of the level, or sets the level itself and forgets the old one. -/

namespace Sys2Proof.Machine

open Sys2Proof

/-- The second outcome is the first but for the level, or stops for the same reason. -/
def LevelOnly (x y : Host.Outcome State Fault Refusal) : Prop :=
  match x with
  | .next t => ∃ l, y = .next (t.withLevel l)
  | .fault r => y = .fault r
  | .refused r => y = .refused r

/-- The same computation, with another level in the state it answers. -/
abbrev answerAtLevel (l : BitVec 10) (x : Except Refusal State) : Except Refusal State :=
  x.map fun t => t.withLevel l

theorem LevelOnly.of_eq {x y : Host.Outcome State Fault Refusal} (h : y = x) : LevelOnly x y := by
  subst h
  cases y with
  | next t => exact ⟨t.audio.level, rfl⟩
  | fault r => rfl
  | refused r => rfl

theorem levelOnly_answer (l : BitVec 10) (x : Except Refusal State) :
    LevelOnly (answer x) (answer (answerAtLevel l x)) := by
  cases x with
  | error r => rfl
  | ok t => exact ⟨l, rfl⟩

/-! ### HOST -/

theorem hostAlike_withLevel (s : State) (l : BitVec 10) : HostAlike id s (s.withLevel l) :=
  ⟨rfl, rfl, rfl, rfl, rfl, rfl, fun _ => rfl, rfl⟩

/-- What HOST makes of two states that differ only in the level differs only in the level. -/
theorem HostAlike.eq_withLevel {s t u : State} {l : BitVec 10} (h : HostAlike id t u)
    (ht : HostOnly s t) (hu : HostOnly (s.withLevel l) u) : u = t.withLevel l := by
  have hout : u.out = t.out := by simpa using h.out
  rw [hu, ht]
  simp only [State.withLevel, h.rb, h.pull, h.draws, hout]

theorem AlikeAnswers.eq_answerAtLevel {s : State} {l : BitVec 10} {x y : Except Refusal State}
    (h : AlikeAnswers id x y) (hx : ∀ {t}, x = .ok t → HostOnly s t)
    (hy : ∀ {t}, y = .ok t → HostOnly (s.withLevel l) t) : y = answerAtLevel l x := by
  obtain ⟨r, rfl, rfl⟩ | ⟨t, u, rfl, rfl, halike⟩ := h
  · rfl
  · rw [halike.eq_withLevel (hx rfl) (hy rfl)]
    rfl

/-- A step of a running pull is HOST's step. -/
theorem HostAlike.runPull (k : Nat) {s t : State} (h : HostAlike id s t) :
    AlikeAnswers id (runPull k s) (runPull k t) := by
  induction k generalizing s t with
  | zero => exact .inr ⟨s, t, rfl, rfl, h⟩
  | succ k ih =>
    have hstep := h.hostStep
    simp only [Machine.runPull, State.hostStep, h.pull] at hstep ⊢
    cases hp : s.pull with
    | none => exact .inr ⟨s, t, rfl, rfl, h⟩
    | some p =>
      rw [hp] at hstep
      obtain ⟨r, hs, ht⟩ | ⟨s', t', hs, ht, h'⟩ := hstep
      · simp only [hs, ht]
        exact .inl ⟨r, rfl, rfl⟩
      · simp only [hs, ht]
        exact ih h'

theorem beginPull_withLevel (s : State) (l : BitVec 10) (k : Nat) :
    (s.withLevel l).beginPull k = (s.beginPull k).withLevel l :=
  ((hostAlike_withLevel s l).beginPull k).eq_withLevel (beginPull_hostOnly _ k)
    (beginPull_hostOnly _ k)

theorem runPull_withLevel (k : Nat) (s : State) (l : BitVec 10) :
    runPull k (s.withLevel l) = answerAtLevel l (runPull k s) :=
  ((hostAlike_withLevel s l).runPull k).eq_answerAtLevel (runPull_hostOnly k) (runPull_hostOnly k)

theorem hostStep_withLevel (s : State) (l : BitVec 10) :
    (s.withLevel l).hostStep = answerAtLevel l s.hostStep :=
  (hostAlike_withLevel s l).hostStep.eq_answerAtLevel hostStep_hostOnly hostStep_hostOnly

theorem produce_withLevel (fs : List Frame) (s : State) (l : BitVec 10) :
    produce fs (s.withLevel l) = answerAtLevel l (produce fs s) :=
  ((hostAlike_withLevel s l).produce fs).eq_answerAtLevel (produce_hostOnly fs) (produce_hostOnly fs)

theorem finishPull_withLevel (s : State) (l : BitVec 10) :
    (s.withLevel l).finishPull = answerAtLevel l s.finishPull := by
  have hpull : (s.withLevel l).pull = s.pull := rfl
  simp only [State.finishPull, hpull]
  cases s.pull with
  | none => rfl
  | some p => exact runPull_withLevel _ s l

theorem execHostPull_levelOnly (n : Nat) (s : State) (l : BitVec 10) :
    LevelOnly (execHostPull n s) (execHostPull n (s.withLevel l)) := by
  have hdevice : (s.withLevel l).audio.deviceOk = s.audio.deviceOk := rfl
  simp only [execHostPull, hdevice, finishPull_withLevel]
  split
  · rfl
  split
  · rfl
  cases s.finishPull with
  | error r => rfl
  | ok u =>
    simp only [Except.map, beginPull_withLevel, runPull_withLevel]
    exact levelOnly_answer l _

/-! ### The drain of a FIFO -/

theorem ite_withLevel (c : Prop) [Decidable c] (s t : State) (l : BitVec 10) :
    (if c then s else t).withLevel l = if c then s.withLevel l else t.withLevel l :=
  apply_ite (State.withLevel · l) c s t

theorem latchOldest_withLevel (s : State) (l : BitVec 10) (i : FifoId) :
    (s.withLevel l).latchOldest i = (s.latchOldest i).withLevel l := by
  cases h : s.fifos.get i with
  | nil =>
    rw [latchOldest_nil h, latchOldest_nil (s := s.withLevel l) h]
    rfl
  | cons b rest =>
    rw [latchOldest_cons h, latchOldest_cons (s := s.withLevel l) h]
    rfl

theorem drainOne_withLevel (s : State) (l : BitVec 10) (i : FifoId) :
    (s.withLevel l).drainOne i = (s.drainOne i).withLevel l := by
  rw [State.drainOne, State.drainOne, latchOldest_withLevel, ite_withLevel]
  rfl

theorem drain_withLevel (i : FifoId) (t : Nat) (s : State) (l : BitVec 10) :
    drain i t (s.withLevel l) = (drain i t s).withLevel l := by
  induction t generalizing s with
  | zero => rfl
  | succ t ih => rw [drain, drainOne_withLevel, ih, drain]

/-! ### The events -/

/-- An event whose rule commutes with a change of the level fires alike at every level. -/
theorem fireOrRefuse_levelOnly (k : EventKind) {body : Nat → State → Except Refusal State}
    {l : BitVec 10} (h : ∀ late s, body late (s.withLevel l) = answerAtLevel l (body late s))
    (s : State) : LevelOnly (fireOrRefuse k body s) (fireOrRefuse k body (s.withLevel l)) := by
  obtain ⟨hnone, hfire⟩ | ⟨e, he, hfire⟩ := fireOrRefuse_eq k body s
  · rw [hfire, fireOrRefuse, show (s.withLevel l).eventsOf k = s.eventsOf k from rfl, hnone]
    rfl
  · rw [hfire, fireOrRefuse_of_some (s := s.withLevel l) he]
    change LevelOnly _ (answer (body _ ((s.beginFiring e).withLevel l)))
    rw [h]
    exact levelOnly_answer l _

theorem fire_levelOnly (k : EventKind) {body : Nat → State → State} {l : BitVec 10}
    (h : ∀ late s, body late (s.withLevel l) = (body late s).withLevel l) (s : State) :
    LevelOnly (fire k body s) (fire k body (s.withLevel l)) := by
  refine fireOrRefuse_levelOnly k (fun late s => ?_) s
  rw [h]
  rfl

theorem generateBody_withLevel (l : BitVec 10) (late : Nat) (s : State) :
    generateBody late (s.withLevel l) = (generateBody late s).withLevel l := by
  rw [generateBody, generateBody, ite_withLevel]
  rfl

theorem seqLength_withLevel (s : State) (l : BitVec 10) :
    (s.withLevel l).seqLength = s.seqLength.withLevel l := by
  rw [State.seqLength, State.seqLength, ite_withLevel]
  rfl

theorem seqEnvelope_withLevel (s : State) (l : BitVec 10) :
    (s.withLevel l).seqEnvelope = s.seqEnvelope.withLevel l := by
  rw [State.seqEnvelope, State.seqEnvelope, ite_withLevel]
  rfl

theorem seqBody_withLevel (l : BitVec 10) (late : Nat) (s : State) :
    seqBody late (s.withLevel l) = (seqBody late s).withLevel l := by
  rw [seqBody, seqLength_withLevel, seqEnvelope_withLevel]
  rfl

theorem retune_withLevel (s : State) (l : BitVec 10) :
    (s.withLevel l).retune = s.retune.withLevel l := by
  rw [State.retune, State.retune, ite_withLevel]
  rfl

theorem pushFrame_withLevel (s : State) (l : BitVec 10) (f : Frame) :
    (s.withLevel l).pushFrame f = answerAtLevel l (s.pushFrame f) := by
  rw [pushFrame_eq, pushFrame_eq]
  exact produce_withLevel _ { s with rs := (s.rs.push s.params.resampler f).1 } l

theorem tickBody_withLevel (l : BitVec 10) (late : Nat) (s : State) :
    tickBody late (s.withLevel l) = answerAtLevel l (tickBody late s) := by
  have hmix : (s.withLevel l).mix = s.mix := rfl
  rw [tickBody, tickBody, retune_withLevel, hmix, pushFrame_withLevel]
  cases s.retune.pushFrame s.mix with
  | error r => rfl
  | ok u => rfl

/-! ### The step -/

/-- The register window reads and writes nothing of the Audio Unit (R178). -/
theorem exec_levelOnly_of_window {i : Instr} (h : windowTransaction i = true) (s : State)
    (l : BitVec 10) : LevelOnly (exec i s) (exec i (s.withLevel l)) := by
  obtain ⟨t, ht, hsched, haudio, hrb, -, -, -, -, -, -, -, hany⟩ :=
    windowTransactionsTouchOnlyTheChannel i s h
  have hlevel := hany s.sched.pending (s.withLevel l).audio s.rb
  rw [ht]
  refine ⟨l, hlevel.trans ?_⟩
  rw [← hsched, ← hrb, State.withLevel, State.withLevel, haudio]

theorem exec_levelOnly (i : Instr) (s : State) (l : BitVec 10) :
    LevelOnly (exec i s) (exec i (s.withLevel l)) := by
  by_cases hwindow : windowTransaction i = true
  · exact exec_levelOnly_of_window hwindow s l
  cases i with
  | biasWr l' r => exact .of_eq rfl
  | reset => exact .of_eq rfl
  | latchFifo i t => exact ⟨l, congrArg Host.Outcome.next (drain_withLevel i t (s.takeArrivals i) l)⟩
  | hostPull n => exact execHostPull_levelOnly n s l
  | evGenerate => exact fire_levelOnly .generate (generateBody_withLevel l) s
  | evTick => exact fireOrRefuse_levelOnly .tick (tickBody_withLevel l) s
  | evSeq => exact fire_levelOnly .seq (seqBody_withLevel l) s
  | evLengthClock => exact ⟨l, rfl⟩
  | evEnvelopeClock => exact ⟨l, rfl⟩
  | _ => exact absurd rfl hwindow

theorem issueWord_levelOnly (t : Nat) (w : TxWord) (s : State) (l : BitVec 10) :
    LevelOnly (issueWord t w s) (issueWord t w (s.withLevel l)) := by
  have hparams : (s.withLevel l).params = s.params := rfl
  simp only [issueWord, hparams]
  cases decode w with
  | error e => rfl
  | ok i =>
    simp only
    split
    · exact exec_levelOnly i (s.atIssue t) l
    · rfl

/-- Who moves next does not depend on the level, and neither does what they do. -/
theorem step_levelOnly (s : State) (l : BitVec 10) :
    LevelOnly (step s) (step (s.withLevel l)) := by
  have hmove : (s.withLevel l).nextMove = s.nextMove := rfl
  simp only [step, agentStep, hmove]
  cases s.nextMove with
  | stop r => rfl
  | host =>
    have hhost : (s.withLevel l).advance.hostStep = answerAtLevel l s.advance.hostStep :=
      hostStep_withLevel s.advance l
    simp only [hhost]
    exact levelOnly_answer l _
  | clock c => exact exec_levelOnly c.instr s.atClock l
  | fire kind => exact exec_levelOnly kind.instr s.advance l
  | issue t w => exact issueWord_levelOnly t w s l

/-- Settles O21: `LevelOnly` is the relation the statement writes out. -/
theorem biasLevelReachesNoOutput : Obligations.BiasLevelReachesNoOutput := fun s l =>
  step_levelOnly s l

end Sys2Proof.Machine
end

section
/-! PROOF. The transaction word: what decoding makes of a word of each port, and that decoding and
encoding agree (spec 30_encoding.md R120 to R125). -/

namespace Sys2Proof

/-! ### What decoding makes of the word of a port -/

theorem unlessReserved_eq_ok_iff {zero : Bool} {i j : Instr} :
    unlessReserved zero i = .ok j ↔ zero = true ∧ i = j := by
  cases zero <;> simp [unlessReserved]

theorem unlessReserved_eq_reservedBits_iff {zero : Bool} {i : Instr} :
    unlessReserved zero i = .error .reservedBits ↔ zero = false := by
  cases zero <;> simp [unlessReserved]

theorem unlessReserved_eq_reservedPort_iff {zero : Bool} {i : Instr} :
    unlessReserved zero i = .error .reservedPort ↔ False := by
  cases zero <;> simp [unlessReserved]

theorem portField_eq_ofNat {w : TxWord} {p : Nat} (h : w.toNat / 4096 = p) :
    portField w = BitVec.ofNat 4 p := by
  rw [← h, ← portField_toNat, BitVec.ofNat_toNat, BitVec.setWidth_eq]

theorem dataField_eq_zero_iff (w : TxWord) : dataField w = 0#8 ↔ w.toNat % 256 = 0 := by
  rw [BitVec.toNat_eq, dataField_toNat]
  rfl

theorem lowField_eq_zero_iff (w : TxWord) : lowField w = 0#12 ↔ w.toNat % 4096 = 0 := by
  rw [BitVec.toNat_eq, lowField_toNat]
  rfl

theorem decode_read {w : TxWord} (h : w.toNat / 4096 = 0) :
    decode w =
      unlessReserved (decide (w.toNat % 4096 < 2048 ∧ w.toNat % 256 = 0))
        (noiseRead (offsetField w)) := by
  simp [decode, portField_eq_ofNat h, bit11_eq_zero, dataField_eq_zero_iff]

theorem decode_write {w : TxWord} (h : w.toNat / 4096 = 1) :
    decode w =
      unlessReserved (decide (w.toNat % 4096 < 2048))
        (noiseWrite (offsetField w) (dataField w)) := by
  simp [decode, portField_eq_ofNat h, bit11_eq_zero]

theorem decode_bias {w : TxWord} (h : w.toNat / 4096 = 2) :
    decode w = .ok (.biasWr (levelField w) (resolutionField w)) := by
  simp [decode, portField_eq_ofNat h]

theorem decode_latch {w : TxWord} (h : w.toNat / 4096 = 3) :
    decode w =
      unlessReserved (decide (w.toNat % 4096 < 512))
        (.latchFifo (fifoField w) (dataField w).toNat) := by
  simp [decode, portField_eq_ofNat h, bits11to9_eq_zero]

theorem decode_pull {w : TxWord} (h : w.toNat / 4096 = 4) :
    decode w = .ok (.hostPull (lowField w).toNat) := by
  simp [decode, portField_eq_ofNat h]

/-- The ports whose words have no operand, with their instructions (R120, R123). -/
def bareInstrs : List (Nat × Instr) :=
  [(5, .reset), (8, .evGenerate), (9, .evTick), (10, .evSeq), (11, .evLengthClock),
    (12, .evEnvelopeClock)]

theorem bareInstrs_cases {p : Nat} {i : Instr} (h : (p, i) ∈ bareInstrs) :
    (p = 5 ∧ i = .reset) ∨ (p = 8 ∧ i = .evGenerate) ∨ (p = 9 ∧ i = .evTick) ∨
      (p = 10 ∧ i = .evSeq) ∨ (p = 11 ∧ i = .evLengthClock) ∨ (p = 12 ∧ i = .evEnvelopeClock) := by
  simpa [bareInstrs] using h

theorem bareInstrs_exists {p : Nat} (h : p = 5 ∨ (8 ≤ p ∧ p ≤ 12)) : ∃ i, (p, i) ∈ bareInstrs := by
  obtain rfl | rfl | rfl | rfl | rfl | rfl :
      p = 5 ∨ p = 8 ∨ p = 9 ∨ p = 10 ∨ p = 11 ∨ p = 12 := by omega
  all_goals simp [bareInstrs]

theorem decode_bare {w : TxWord} {i : Instr} (h : (w.toNat / 4096, i) ∈ bareInstrs) :
    decode w = unlessReserved (decide (w.toNat % 4096 = 0)) i := by
  obtain ⟨hp, rfl⟩ | ⟨hp, rfl⟩ | ⟨hp, rfl⟩ | ⟨hp, rfl⟩ | ⟨hp, rfl⟩ | ⟨hp, rfl⟩ :=
    bareInstrs_cases h
  all_goals simp [decode, portField_eq_ofNat hp, lowField_eq_zero_iff]

theorem decode_reservedPort {w : TxWord}
    (h : w.toNat / 4096 = 6 ∨ w.toNat / 4096 = 7 ∨ 13 ≤ w.toNat / 4096) :
    decode w = .error .reservedPort := by
  have hw := w.isLt
  obtain hp | hp | hp | hp | hp : w.toNat / 4096 = 6 ∨ w.toNat / 4096 = 7 ∨ w.toNat / 4096 = 13 ∨
      w.toNat / 4096 = 14 ∨ w.toNat / 4096 = 15 := by omega
  all_goals simp [decode, portField_eq_ofNat hp]

/-- Every port has one of the formats of R120 or is reserved (R122). -/
theorem port_cases (w : TxWord) :
    w.toNat / 4096 = 0 ∨ w.toNat / 4096 = 1 ∨ w.toNat / 4096 = 2 ∨ w.toNat / 4096 = 3 ∨
      w.toNat / 4096 = 4 ∨ (w.toNat / 4096 = 5 ∨ (8 ≤ w.toNat / 4096 ∧ w.toNat / 4096 ≤ 12)) ∨
      (w.toNat / 4096 = 6 ∨ w.toNat / 4096 = 7 ∨ 13 ≤ w.toNat / 4096) := by
  omega

/-! ### The word of an instruction -/

theorem encode_noiseRead (o : BitVec 3) : encode (noiseRead o) = readWord o := by
  fin_cases o <;> rfl

theorem noiseRead_wellFormed (o : BitVec 3) : (noiseRead o).wellFormed = true := by
  fin_cases o <;> rfl

theorem noiseWrite_wellFormed (o : BitVec 3) (d : Byte) : (noiseWrite o d).wellFormed = true := by
  fin_cases o <;> rfl

theorem bare_wellFormed {p : Nat} {i : Instr} (h : (p, i) ∈ bareInstrs) : i.wellFormed = true := by
  obtain ⟨-, rfl⟩ | ⟨-, rfl⟩ | ⟨-, rfl⟩ | ⟨-, rfl⟩ | ⟨-, rfl⟩ | ⟨-, rfl⟩ := bareInstrs_cases h
  all_goals rfl

theorem bareWord_toNat {p : Nat} {i : Instr} (h : (p, i) ∈ bareInstrs) :
    (encode i).toNat = 4096 * p := by
  obtain ⟨rfl, rfl⟩ | ⟨rfl, rfl⟩ | ⟨rfl, rfl⟩ | ⟨rfl, rfl⟩ | ⟨rfl, rfl⟩ | ⟨rfl, rfl⟩ :=
    bareInstrs_cases h
  all_goals rfl

theorem fifoBit_toNat_of_bit {n : Nat} (h : n < 2) :
    (fifoBit (if n = 0 then .fifo0 else .fifo1)).toNat = n := by
  obtain rfl | rfl : n = 0 ∨ n = 1 := by omega
  all_goals rfl

theorem fifo_of_fifoBit (i : FifoId) :
    (if (fifoBit i).toNat = 0 then .fifo0 else .fifo1) = i := by
  cases i <;> rfl

/-! ### The word decodes to its instruction -/

theorem decode_readWord (o : BitVec 3) : decode (readWord o) = .ok (noiseRead o) := by
  have hw := readWord_toNat o
  have ho : offsetField (readWord o) = o := by
    rw [BitVec.toNat_eq, offsetField_toNat]
    omega
  rw [decode_read (by omega), ho, unlessReserved_eq_ok_iff, decide_eq_true_iff]
  exact ⟨by omega, rfl⟩

theorem decode_writeWord (o : BitVec 3) (d : Byte) :
    decode (writeWord o d) = .ok (noiseWrite o d) := by
  have hw := writeWord_toNat o d
  have ho : offsetField (writeWord o d) = o := by
    rw [BitVec.toNat_eq, offsetField_toNat]
    omega
  have hd : dataField (writeWord o d) = d := by
    rw [BitVec.toNat_eq, dataField_toNat]
    omega
  rw [decode_write (by omega), ho, hd, unlessReserved_eq_ok_iff, decide_eq_true_iff]
  exact ⟨by omega, rfl⟩

theorem decode_biasWord (l : BitVec 10) (r : BitVec 2) :
    decode (encode (.biasWr l r)) = .ok (.biasWr l r) := by
  have hw := biasWord_toNat l r
  have hl : levelField (encode (.biasWr l r)) = l := by
    rw [BitVec.toNat_eq, levelField_toNat]
    omega
  have hr : resolutionField (encode (.biasWr l r)) = r := by
    rw [BitVec.toNat_eq, resolutionField_toNat]
    omega
  rw [decode_bias (by omega), hl, hr]

theorem decode_latchWord (i : FifoId) {t : Nat} (h : t < 256) :
    decode (encode (.latchFifo i t)) = .ok (.latchFifo i t) := by
  have hw := latchWord_toNat i t
  have hi : fifoField (encode (.latchFifo i t)) = i := by
    rw [fifoField_eq, show (encode (.latchFifo i t)).toNat / 256 % 2 = (fifoBit i).toNat by omega,
      fifo_of_fifoBit]
  have ht : (dataField (encode (.latchFifo i t))).toNat = t := by
    rw [dataField_toNat]
    omega
  rw [decode_latch (by omega), hi, ht, unlessReserved_eq_ok_iff, decide_eq_true_iff]
  exact ⟨by omega, rfl⟩

theorem decode_pullWord {n : Nat} (h : n < 4096) :
    decode (encode (.hostPull n)) = .ok (.hostPull n) := by
  have hw := pullWord_toNat n
  have hn : (lowField (encode (.hostPull n))).toNat = n := by
    rw [lowField_toNat]
    omega
  rw [decode_pull (by omega), hn]

/-- Settles O1: the word of each format has the fields it was put together from. -/
theorem decodeEncodedInstruction : Obligations.DecodeEncodedInstruction := by
  intro i h
  cases i with
  | noiseRd0 => exact decode_readWord 0
  | noiseRd1 => exact decode_readWord 1
  | noiseRd2 => exact decode_readWord 2
  | noiseRd3 => exact decode_readWord 3
  | noiseRd4 => exact decode_readWord 4
  | noiseRd5 => exact decode_readWord 5
  | noiseRd6 => exact decode_readWord 6
  | noiseRd7 => exact decode_readWord 7
  | noiseWr0 d => exact decode_writeWord 0 d
  | noiseWr1 d => exact decode_writeWord 1 d
  | noiseWr2 d => exact decode_writeWord 2 d
  | noiseWr3 d => exact decode_writeWord 3 d
  | noiseWr4 d => exact decode_writeWord 4 d
  | noiseWr5 d => exact decode_writeWord 5 d
  | noiseWr6 d => exact decode_writeWord 6 d
  | noiseWr7 d => exact decode_writeWord 7 d
  | biasWr l r => exact decode_biasWord l r
  | latchFifo i t => exact decode_latchWord i (of_decide_eq_true h)
  | hostPull n => exact decode_pullWord (of_decide_eq_true h)
  | reset => rfl
  | evGenerate => rfl
  | evTick => rfl
  | evSeq => rfl
  | evLengthClock => rfl
  | evEnvelopeClock => rfl

/-! ### A decoded word is the word of its instruction -/

/-- Settles O2: in each format the fields that decoding reads, and the zeros that it asks for, are all of
the word. -/
theorem encodeDecodedWord : Obligations.EncodeDecodedWord := by
  intro w i h
  have hw := w.isLt
  obtain hp | hp | hp | hp | hp | hp | hp := port_cases w
  · rw [decode_read hp, unlessReserved_eq_ok_iff, decide_eq_true_iff] at h
    obtain ⟨hzero, rfl⟩ := h
    refine ⟨?_, noiseRead_wellFormed _⟩
    rw [encode_noiseRead, BitVec.toNat_eq, readWord_toNat, offsetField_toNat]
    omega
  · rw [decode_write hp, unlessReserved_eq_ok_iff, decide_eq_true_iff] at h
    obtain ⟨hzero, rfl⟩ := h
    refine ⟨?_, noiseWrite_wellFormed _ _⟩
    rw [Machine.encode_noiseWrite, BitVec.toNat_eq, writeWord_toNat, offsetField_toNat,
      dataField_toNat]
    omega
  · rw [decode_bias hp] at h
    cases h
    refine ⟨?_, rfl⟩
    rw [BitVec.toNat_eq, biasWord_toNat, levelField_toNat, resolutionField_toNat]
    omega
  · rw [decode_latch hp, unlessReserved_eq_ok_iff, decide_eq_true_iff] at h
    obtain ⟨hzero, rfl⟩ := h
    refine ⟨?_, decide_eq_true (dataField w).isLt⟩
    rw [BitVec.toNat_eq, latchWord_toNat, fifoField_eq, fifoBit_toNat_of_bit (by omega),
      dataField_toNat]
    omega
  · rw [decode_pull hp] at h
    cases h
    refine ⟨?_, decide_eq_true (lowField w).isLt⟩
    rw [BitVec.toNat_eq, pullWord_toNat, lowField_toNat]
    omega
  · obtain ⟨j, hj⟩ := bareInstrs_exists hp
    rw [decode_bare hj, unlessReserved_eq_ok_iff, decide_eq_true_iff] at h
    obtain ⟨hzero, rfl⟩ := h
    refine ⟨?_, bare_wellFormed hj⟩
    rw [BitVec.toNat_eq, bareWord_toNat hj]
    omega
  · rw [decode_reservedPort hp] at h
    cases h

/-! ### The rows of the opcode table -/

/-- R125: the word of every instruction matches its row. -/
theorem encode_and_rowMask (i : Instr) : encode i &&& rowMask i = rowMatch i := by
  open Laws.MatchesRow in
  cases i with
  | noiseRd0 => exact noiseRd0
  | noiseRd1 => exact noiseRd1
  | noiseRd2 => exact noiseRd2
  | noiseRd3 => exact noiseRd3
  | noiseRd4 => exact noiseRd4
  | noiseRd5 => exact noiseRd5
  | noiseRd6 => exact noiseRd6
  | noiseRd7 => exact noiseRd7
  | noiseWr0 d => exact noiseWr0 d
  | noiseWr1 d => exact noiseWr1 d
  | noiseWr2 d => exact noiseWr2 d
  | noiseWr3 d => exact noiseWr3 d
  | noiseWr4 d => exact noiseWr4 d
  | noiseWr5 d => exact noiseWr5 d
  | noiseWr6 d => exact noiseWr6 d
  | noiseWr7 d => exact noiseWr7 d
  | biasWr l r => exact biasWr l r
  | latchFifo i t => exact latchFifo i t
  | hostPull n => exact hostPull n
  | reset => exact reset
  | evGenerate => exact evGenerate
  | evTick => exact evTick
  | evSeq => exact evSeq
  | evLengthClock => exact evLengthClock
  | evEnvelopeClock => exact evEnvelopeClock

/-- A mask of the bits from `k` on fixes the quotient by `2 ^ k`. -/
theorem div_eq_of_and_mask {n : Nat} {w m : BitVec n} (k : Nat)
    (h : w &&& (BitVec.allOnes n <<< k) = m) : w.toNat / 2 ^ k = m.toNat / 2 ^ k := by
  have hshift : w >>> k = m >>> k := by
    subst h
    ext j hj
    have hlt := BitVec.lt_of_getLsbD (x := w) (i := k + j)
    simpa [hj] using hlt
  simpa [Nat.shiftRight_eq_div_pow] using congrArg BitVec.toNat hshift

theorem decode_of_full_row {w : TxWord} {i : Instr} (h : w &&& rowMask i = rowMatch i)
    (hmask : rowMask i = BitVec.allOnes 16) (hword : encode i = rowMatch i)
    (hwf : i.wellFormed = true) : decode w = .ok i := by
  rw [hmask, BitVec.and_allOnes, ← hword] at h
  rw [h, decodeEncodedInstruction i hwf]

theorem decode_of_write_row {w : TxWord} (o : BitVec 3) (h : w &&& 0xFF00 = writeWord o 0) :
    decode w = .ok (noiseWrite o (dataField w)) := by
  have hdiv := div_eq_of_and_mask 8 h
  have hword := writeWord_toNat o 0
  have ho : offsetField w = o := by
    rw [BitVec.toNat_eq, offsetField_toNat]
    omega
  rw [decode_write (by omega), ho, unlessReserved_eq_ok_iff, decide_eq_true_iff]
  exact ⟨by omega, rfl⟩

theorem decode_of_latch_row {w : TxWord} (h : w &&& 0xFE00 = 0x3000) :
    decode w = .ok (.latchFifo (fifoField w) (dataField w).toNat) := by
  have hdiv : w.toNat / 512 = 24 := div_eq_of_and_mask 9 h
  rw [decode_latch (by omega), unlessReserved_eq_ok_iff, decide_eq_true_iff]
  exact ⟨by omega, rfl⟩

/-- A word whose fixed bits are those of a row decodes to an instruction of that row. -/
theorem decode_of_row {w : TxWord} {i : Instr} (h : w &&& rowMask i = rowMatch i) :
    ∃ j, decode w = .ok j ∧ rowMatch j = rowMatch i ∧ rowMask j = rowMask i := by
  cases i with
  | noiseWr0 d => exact ⟨_, decode_of_write_row 0 h, rfl, rfl⟩
  | noiseWr1 d => exact ⟨_, decode_of_write_row 1 h, rfl, rfl⟩
  | noiseWr2 d => exact ⟨_, decode_of_write_row 2 h, rfl, rfl⟩
  | noiseWr3 d => exact ⟨_, decode_of_write_row 3 h, rfl, rfl⟩
  | noiseWr4 d => exact ⟨_, decode_of_write_row 4 h, rfl, rfl⟩
  | noiseWr5 d => exact ⟨_, decode_of_write_row 5 h, rfl, rfl⟩
  | noiseWr6 d => exact ⟨_, decode_of_write_row 6 h, rfl, rfl⟩
  | noiseWr7 d => exact ⟨_, decode_of_write_row 7 h, rfl, rfl⟩
  | biasWr l r => exact ⟨_, decode_bias (div_eq_of_and_mask (m := 0x2000) 12 h), rfl, rfl⟩
  | latchFifo f t => exact ⟨_, decode_of_latch_row h, rfl, rfl⟩
  | hostPull n => exact ⟨_, decode_pull (div_eq_of_and_mask (m := 0x4000) 12 h), rfl, rfl⟩
  | _ => exact ⟨_, decode_of_full_row h rfl rfl rfl, rfl, rfl⟩

/-- Settles O3: a decoded word is the word of its instruction, which matches its row; and a row fixes
what decoding asks for. -/
theorem decodingFollowsTheOpcodeRows : Obligations.DecodingFollowsTheOpcodeRows := by
  refine ⟨fun w i h => ?_, fun w i h => decode_of_row h⟩
  rw [← (encodeDecodedWord w i h).1]
  exact encode_and_rowMask i

/-! ### The words that decode to nothing -/

/-- Settles O4: each port's format asks for its own zeros, and the ports without a format are the
reserved ones. -/
theorem reservedWordsAreRejected : Obligations.ReservedWordsAreRejected := by
  intro w
  have hw := w.isLt
  obtain hp | hp | hp | hp | hp | hp | hp := port_cases w
  · simp only [decode_read hp, unlessReserved_eq_reservedPort_iff,
      unlessReserved_eq_reservedBits_iff, decide_eq_false_iff_not, false_iff]
    omega
  · simp only [decode_write hp, unlessReserved_eq_reservedPort_iff,
      unlessReserved_eq_reservedBits_iff, decide_eq_false_iff_not, false_iff]
    omega
  · simp only [decode_bias hp, reduceCtorEq, false_iff]
    omega
  · simp only [decode_latch hp, unlessReserved_eq_reservedPort_iff,
      unlessReserved_eq_reservedBits_iff, decide_eq_false_iff_not, false_iff]
    omega
  · simp only [decode_pull hp, reduceCtorEq, false_iff]
    omega
  · obtain ⟨j, hj⟩ := bareInstrs_exists hp
    simp only [decode_bare hj, unlessReserved_eq_reservedPort_iff,
      unlessReserved_eq_reservedBits_iff, decide_eq_false_iff_not, false_iff]
    omega
  · simp only [decode_reservedPort hp, Except.error.injEq, reduceCtorEq, true_iff, false_iff]
    omega

/-- Settles O5: decoding computes. -/
theorem spelledWordsDecode : Obligations.SpelledWordsDecode := by
  unfold Obligations.SpelledWordsDecode
  decide

end Sys2Proof
end

section
/-! PROOF. What a step can do: who moves, which event is chosen, and the instruction that runs (spec
60_exceptions.md R342 to R345, R350 to R352; 42_sequencer.md R259). -/

namespace Sys2Proof.Machine

open Sys2Proof

/-! ### The event SCHED chooses -/

theorem drawTie_mem {ties : List Event} {first : Event} (h : first ∈ ties) (n : Nat) :
    drawTie ties n first ∈ ties := by
  unfold drawTie
  split
  · exact List.mem_singleton_self _
  · cases hget : ties[Config.tieChoice n % ties.length]? with
    | none => exact h
    | some e => exact List.mem_of_getElem? hget

theorem chosenEvent_eq_none {s : State} (h : s.chosenEvent = none) : s.sched.pending = [] := by
  unfold State.chosenEvent at h
  split at h
  · next he => exact earliest_eq_none.mp he
  · split at h <;> cases h

/-- R342, R344: the chosen event has the smallest deadline, and under `REG_FIFO` the smallest number
among those. -/
theorem chosenEvent_least {s : State} {e : Event} (h : s.chosenEvent = some e) :
    e ∈ s.sched.pending ∧ (∀ x ∈ s.sched.pending, e.deadline ≤ x.deadline) ∧
      (s.params.tieOrder = .regFifo →
        ∀ x ∈ s.sched.pending, x.deadline = e.deadline → e.reg ≤ x.reg) := by
  unfold State.chosenEvent at h
  split at h
  · cases h
  · next m hm =>
    have hmem := earliest_mem hm
    have hleast := earliest_least hm
    split at h
    · cases h
      refine ⟨hmem, fun x hx => ?_, fun _ x hx hd => ?_⟩ <;> have := hleast x hx <;> omega
    · next htie =>
      cases h
      have hties : m ∈ s.sched.pending.filter (fun e => decide (e.deadline = m.deadline)) := by
        simp [hmem]
      obtain ⟨hin, hd⟩ := List.mem_filter.mp (drawTie_mem hties s.draws)
      rw [decide_eq_true_iff] at hd
      refine ⟨hin, fun x hx => ?_, fun hreg => ?_⟩
      · have := hleast x hx
        omega
      · rw [htie] at hreg
        cases hreg

/-- Where every pending event is later than a cycle, so is the chosen one. -/
theorem chosenEvent_later {s : State} {c : Nat} (h : ∀ e ∈ s.sched.pending, c < e.deadline) :
    ∀ e, s.chosenEvent = some e → c < e.deadline := fun e he => h e (chosenEvent_least he).1

/-! ### Who moves -/

/-- Everything the emulation context can do next (R342, R345). -/
theorem emulationMove_cases (s : State) :
    (s.program = [] ∧ s.chosenEvent = none ∧ s.emulationMove = .stop .eventNotPending) ∨
    (∃ c w rest, s.program = (c, w) :: rest ∧ c < s.sched.now ∧
      s.emulationMove = .stop .programOrder) ∨
    (∃ e, s.chosenEvent = some e ∧
      (∀ c w rest, s.program = (c, w) :: rest → s.sched.now ≤ c ∧ e.deadline ≤ c) ∧
      s.emulationMove = .fire e.kind) ∨
    ∃ c w rest, s.program = (c, w) :: rest ∧ s.sched.now ≤ c ∧
      (∀ e, s.chosenEvent = some e →
        c < e.deadline ∨ (c = e.deadline ∧ s.params.cpuSync = .eitherOrder)) ∧
      s.emulationMove = .issue c w := by
  unfold State.emulationMove
  cases hp : s.program with
  | nil =>
    cases hc : s.chosenEvent with
    | none => exact .inl ⟨rfl, rfl, rfl⟩
    | some e => exact .inr (.inr (.inl ⟨e, rfl, by simp, rfl⟩))
  | cons pair rest =>
    obtain ⟨c, w⟩ := pair
    simp only
    split
    · next hlate => exact .inr (.inl ⟨c, w, rest, rfl, hlate, rfl⟩)
    next hnow =>
    have hnow : s.sched.now ≤ c := Nat.le_of_not_lt hnow
    cases hc : s.chosenEvent with
    | none => exact .inr (.inr (.inr ⟨c, w, rest, rfl, hnow, by simp, rfl⟩))
    | some e =>
      have hfire (hd : e.deadline ≤ c) (c' : Nat) (w' : TxWord) (rest' : List (Nat × TxWord))
          (heq : (c, w) :: rest = (c', w') :: rest') : s.sched.now ≤ c' ∧ e.deadline ≤ c' := by
        cases heq
        exact ⟨hnow, hd⟩
      simp only
      split
      · next hd => exact .inr (.inr (.inl ⟨e, rfl, hfire (Nat.le_of_lt hd), rfl⟩))
      split
      · next hd =>
        split
        · exact .inr (.inr (.inl ⟨e, rfl, hfire (Nat.le_of_eq hd), rfl⟩))
        · next hsync =>
          refine .inr (.inr (.inr ⟨c, w, rest, rfl, hnow, fun e' he' => ?_, rfl⟩))
          cases he'
          refine .inr ⟨hd.symm, ?_⟩
          unfold State.eventsFirst at hsync
          split at hsync
          · exact absurd rfl hsync
          · assumption
      · next hd hne =>
        refine .inr (.inr (.inr ⟨c, w, rest, rfl, hnow, fun e' he' => ?_, rfl⟩))
        cases he'
        exact .inl (by omega)

theorem step_of_hostMoves {s : State} (h : s.hostMoves = true) :
    step s = answer s.advance.hostStep := by
  simp [step, agentStep, State.nextMove, h]

theorem step_of_clockMoves {s : State} (hh : s.hostMoves = false) (hc : s.clockMoves = true) :
    step s = exec s.drawnClock.instr s.atClock := by
  simp [step, agentStep, State.nextMove, hh, hc]

section Emulation

variable {s : State} (hh : s.hostMoves = false) (hc : s.clockMoves = false)

include hh hc

theorem nextMove_of_emulation : s.nextMove = s.emulationMove := by
  simp [State.nextMove, hh, hc]

theorem step_of_stop {r : Refusal} (h : s.emulationMove = .stop r) : step s = .refused r := by
  simp [step, agentStep, nextMove_of_emulation hh hc, h]

theorem step_of_fire {k : EventKind} (h : s.emulationMove = .fire k) :
    step s = exec k.instr s.advance := by
  simp [step, agentStep, nextMove_of_emulation hh hc, h]

theorem step_of_issue {c : Nat} {w : TxWord} (h : s.emulationMove = .issue c w) :
    step s = issueWord c w s := by
  simp [step, agentStep, nextMove_of_emulation hh hc, h]

end Emulation

theorem issueWord_of_issuable {s : State} {c : Nat} {w : TxWord} {i : Instr} (hd : decode w = .ok i)
    (hi : mayIssue s.params.seqSchedule i = true) : issueWord c w s = exec i (s.atIssue c) := by
  simp [issueWord, hd, hi]

theorem issueWord_of_not_issuable {s : State} {c : Nat} {w : TxWord} {i : Instr}
    (hd : decode w = .ok i) (hi : mayIssue s.params.seqSchedule i = false) :
    issueWord c w s = .refused .internalEvent := by
  simp [issueWord, hd, hi]

theorem issueWord_of_error {s : State} {c : Nat} {w : TxWord} {e : DecodeError}
    (hd : decode w = .error e) : issueWord c w s = .refused (refusalOf e) := by
  simp [issueWord, hd]

/-- Everything a step that answers a next state can be (R336, R350). -/
theorem step_next_cases {s t : State} (h : step s = .next t) :
    (s.hostMoves = true ∧ s.advance.hostStep = .ok t) ∨
    (s.hostMoves = false ∧ s.clockMoves = true ∧ exec s.drawnClock.instr s.atClock = .next t) ∨
    (∃ e, s.chosenEvent = some e ∧
      (∀ c w rest, s.program = (c, w) :: rest → s.sched.now ≤ c ∧ e.deadline ≤ c) ∧
      exec e.kind.instr s.advance = .next t) ∨
    ∃ c w rest i, s.program = (c, w) :: rest ∧ s.sched.now ≤ c ∧
      mayIssue s.params.seqSchedule i = true ∧ exec i (s.atIssue c) = .next t := by
  cases hh : s.hostMoves with
  | true => exact .inl ⟨rfl, answer_next ((step_of_hostMoves hh).symm.trans h)⟩
  | false =>
    cases hc : s.clockMoves with
    | true => exact .inr (.inl ⟨rfl, rfl, (step_of_clockMoves hh hc).symm.trans h⟩)
    | false =>
      obtain ⟨-, -, hm⟩ | ⟨c, w, rest, -, -, hm⟩ | ⟨e, he, hbefore, hm⟩ |
        ⟨c, w, rest, hp, hnow, -, hm⟩ := emulationMove_cases s
      · rw [step_of_stop hh hc hm] at h
        cases h
      · rw [step_of_stop hh hc hm] at h
        cases h
      · exact .inr (.inr (.inl ⟨e, he, hbefore, (step_of_fire hh hc hm).symm.trans h⟩))
      · rw [step_of_issue hh hc hm] at h
        cases hd : decode w with
        | error e =>
          rw [issueWord_of_error hd] at h
          cases h
        | ok i =>
          cases hi : mayIssue s.params.seqSchedule i with
          | false =>
            rw [issueWord_of_not_issuable hd hi] at h
            cases h
          | true =>
            rw [issueWord_of_issuable hd hi] at h
            exact .inr (.inr (.inr ⟨c, w, rest, i, hp, hnow, hi, h⟩))

/-- R259: a clock comes under the external schedule alone, from `E.now` on and before no listed pair is
passed. -/
theorem clockMoves_bounds {s : State} (h : s.clockMoves = true) :
    s.params.seqSchedule = .external ∧ s.sched.now ≤ s.clockCycle ∧
      ∀ c w rest, s.program = (c, w) :: rest → s.clockCycle ≤ c := by
  simp only [State.clockMoves, State.clockEnabled, Bool.and_eq_true, decide_eq_true_eq] at h
  obtain ⟨-, ⟨hext, -⟩, hnow⟩ := h
  unfold State.clockCycle
  cases hp : s.program with
  | nil => exact ⟨hext, Nat.le_add_right _ _, by simp⟩
  | cons pair rest =>
    rw [hp] at hnow
    refine ⟨hext, Nat.le_add_right _ _, fun c w rest' heq => ?_⟩
    cases heq
    have hnow : s.sched.now ≤ c := of_decide_eq_true hnow
    simp only
    omega

theorem clock_instr_cases (c : Clock) : c.instr = .evLengthClock ∨ c.instr = .evEnvelopeClock := by
  cases c with
  | length => exact .inl rfl
  | envelope => exact .inr rfl

/-! ### The statements about who moves -/

/-- With a pair listed that is not late and no event due by its cycle, its word is issued. -/
theorem step_of_listed {s : State} {c : Nat} {w : TxWord} {rest : List (Nat × TxWord)}
    (hh : s.hostMoves = false) (hc : s.clockMoves = false) (hp : s.program = (c, w) :: rest)
    (hnow : s.sched.now ≤ c) (hlater : ∀ e ∈ s.sched.pending, c < e.deadline) :
    step s = issueWord c w s := by
  obtain ⟨hnil, -, -⟩ | ⟨c', w', rest', hp', hlate, -⟩ | ⟨e, he, hbefore, -⟩ |
    ⟨c', w', rest', hp', -, -, hm⟩ := emulationMove_cases s
  · rw [hp] at hnil
    cases hnil
  · rw [hp] at hp'
    cases hp'
    omega
  · have := hbefore c w rest hp
    have := chosenEvent_later hlater e he
    omega
  · rw [hp] at hp'
    cases hp'
    exact step_of_issue hh hc hm

/-- Settles O48: the issue of the word is `exec` in `State.atIssue`, and a clock is `exec` in
`State.atClock`. -/
theorem stepRunsTheListedInstruction : Obligations.StepRunsTheListedInstruction := by
  refine ⟨fun s c w rest i hh hc hp hnow hlater hd hi => ⟨Turn.draw s.draws, ?_⟩,
    fun s hh hc => ⟨s.drawnClock.instr, s.clockCycle, Turn.draw s.draws,
      clock_instr_cases _, ?_, ?_, ?_, step_of_clockMoves hh hc⟩⟩
  · rw [step_of_listed hh hc hp hnow hlater, issueWord_of_issuable hd hi, State.atIssue, hp]
    rfl
  · exact (clockMoves_bounds hc).1
  · exact (clockMoves_bounds hc).2.1
  · exact (clockMoves_bounds hc).2.2

/-- Settles O49: of the four things the emulation context can do, the hypotheses leave the firing. -/
theorem stepFiresTheEarliestEvent : Obligations.StepFiresTheEarliestEvent := by
  intro s hh hc hpending hdue
  obtain ⟨-, hnone, -⟩ | ⟨c, w, rest, hp, hlate, -⟩ | ⟨e, he, -, hm⟩ |
    ⟨c, w, rest, hp, -, hlater, -⟩ := emulationMove_cases s
  · exact absurd (chosenEvent_eq_none hnone) hpending
  · obtain hnil | ⟨c', w', rest', hp', hnow, -⟩ := hdue
    · rw [hp] at hnil
      cases hnil
    · rw [hp] at hp'
      cases hp'
      omega
  · obtain ⟨hmem, hleast, hreg⟩ := chosenEvent_least he
    exact ⟨e, hmem, hleast, hreg, Turn.draw s.draws, step_of_fire hh hc hm⟩
  · obtain hnil | ⟨c', w', rest', hp', -, x, hx, hxc⟩ := hdue
    · rw [hp] at hnil
      cases hnil
    · rw [hp] at hp'
      cases hp'
      obtain ⟨e, he⟩ := Option.ne_none_iff_exists'.mp
        (fun hnone => hpending (chosenEvent_eq_none hnone))
      have := (chosenEvent_least he).2.1 x hx
      have := hlater e he
      omega

/-- Settles O50: at the pair's own cycle the context fires the chosen event, whose deadline that is, or
issues the word as the open `CPU_SYNC` allows. -/
theorem eventAtTransactionCycle : Obligations.EventAtTransactionCycle := by
  intro s c w rest hh hc hp hnow ⟨x, hx, hxc⟩ hleast
  obtain ⟨hnil, -, -⟩ | ⟨c', w', rest', hp', hlate, -⟩ | ⟨e, he, hbefore, hm⟩ |
    ⟨c', w', rest', hp', -, hsync, hm⟩ := emulationMove_cases s
  · rw [hp] at hnil
    cases hnil
  · rw [hp] at hp'
    cases hp'
    omega
  · have hmem := (chosenEvent_least he).1
    have hd : e.deadline = c := Nat.le_antisymm (hbefore c w rest hp).2 (hleast e hmem)
    exact .inl ⟨e, hmem, hd, Turn.draw s.draws, step_of_fire hh hc hm⟩
  · rw [hp] at hp'
    cases hp'
    obtain ⟨e, he⟩ := Option.ne_none_iff_exists'.mp
      (fun hnone => List.ne_nil_of_mem hx (chosenEvent_eq_none hnone))
    have := (chosenEvent_least he).2.1 x hx
    refine .inr ⟨?_, step_of_issue hh hc hm⟩
    obtain hlt | ⟨-, hopen⟩ := hsync e he
    · omega
    · exact hopen

theorem step_of_late {s : State} {c : Nat} {w : TxWord} {rest : List (Nat × TxWord)}
    (hh : s.hostMoves = false) (hc : s.clockMoves = false) (hp : s.program = (c, w) :: rest)
    (hlate : c < s.sched.now) : step s = .refused .programOrder := by
  refine step_of_stop hh hc ?_
  rw [State.emulationMove, hp]
  simp only [hlate, if_true]

/-- Settles O51: a late pair stops the context, and otherwise the word is issued and refused as its
decoding or `mayIssue` says. -/
theorem listedWordsRefused : Obligations.ListedWordsRefused := by
  intro s c w rest hh hc hp
  refine ⟨step_of_late hh hc hp, fun hnow hlater => ?_⟩
  rw [step_of_listed hh hc hp hnow hlater]
  refine ⟨issueWord_of_error, issueWord_of_error, fun hw => ?_, fun hw hfs => ?_⟩
  · obtain rfl | rfl | rfl := hw
    · exact issueWord_of_not_issuable (i := .evGenerate) rfl rfl
    · exact issueWord_of_not_issuable (i := .evTick) rfl rfl
    · exact issueWord_of_not_issuable (i := .evSeq) rfl rfl
  · obtain rfl | rfl := hw
    · exact issueWord_of_not_issuable (i := .evLengthClock) rfl (by rw [hfs]; rfl)
    · exact issueWord_of_not_issuable (i := .evEnvelopeClock) rfl (by rw [hfs]; rfl)

end Sys2Proof.Machine
end

section
/-! PROOF. What each instruction leaves unchanged and how it moves the scheduler, the outputs and the
draws; from these, who writes which piece of the state (spec 10_state.md R31 to R59; 60_exceptions.md
R340, R341). -/

namespace Sys2Proof.Machine

open Sys2Proof

/-! ### The rule of an event, from its firing -/

theorem exec_evGenerate_next {s t : State} (h : exec .evGenerate s = .next t) :
    ∃ e, earliest (s.eventsOf .generate) = some e ∧
      t = generateBody (s.firingCycle e.deadline - e.deadline) (s.beginFiring e) :=
  fire_next h

theorem exec_evSeq_next {s t : State} (h : exec .evSeq s = .next t) :
    ∃ e, earliest (s.eventsOf .seq) = some e ∧
      t = seqBody (s.firingCycle e.deadline - e.deadline) (s.beginFiring e) :=
  fire_next h

/-- A Tick that completes is a push, a draw and the re-arm (R280). -/
theorem tickBody_ok {late : Nat} {s t : State} (h : tickBody late s = .ok t) :
    ∃ u, s.retune.pushFrame s.mix = .ok u ∧
      t = u.drawn.schedule .tick ((mixerInterval s.audio.resolution : Int) - late) := by
  unfold tickBody at h
  split at h
  · cases h
  · next u hu =>
    cases h
    exact ⟨u, hu, rfl⟩

theorem exec_evTick_next {s t : State} (h : exec .evTick s = .next t) :
    ∃ e u, earliest (s.eventsOf .tick) = some e ∧
      (s.beginFiring e).retune.pushFrame (s.beginFiring e).mix = .ok u ∧
      t = u.drawn.schedule .tick
        ((mixerInterval s.audio.resolution : Int) - (s.firingCycle e.deadline - e.deadline : Nat)) := by
  obtain ⟨e, he, hbody⟩ := fireOrRefuse_next h
  obtain ⟨u, hu, rfl⟩ := tickBody_ok hbody
  exact ⟨e, u, he, hu, rfl⟩

/-- A pull that completes: the running one ends, and then it runs whole (R345). -/
theorem exec_hostPull_next {n : Nat} {s t : State} (h : exec (.hostPull n) s = .next t) :
    s.audio.deviceOk = true ∧ n % 4 = 0 ∧
      ∃ u, s.finishPull = .ok u ∧ runPull (n / 4) (u.beginPull (n / 4)) = .ok t := by
  simp only [exec, execHostPull] at h
  split at h
  · cases h
  next hdevice =>
  split at h
  · cases h
  next hlen =>
  split at h
  · cases h
  next u hu =>
  exact ⟨Bool.eq_true_of_not_eq_false hdevice, Classical.not_not.mp hlen, u, hu, answer_next h⟩

/-- The state that a reset leaves to the device: everything but the device, the ring buffer and the
resampler (R360). -/
def State.resetBlock (s : State) : State :=
  s.cancelEvents.resetAudio.resetNoise.resetFrameSequencer

/-- A reset that completes: the running pull ends, the device is opened again and the status given. -/
theorem exec_reset_next {s t : State} (h : exec .reset s = .next t) :
    ∃ u, s.resetBlock.finishPull = .ok u ∧ t = u.reopen.giveStatus := by
  simp only [exec, execReset, State.resetDevice] at h
  cases hu : s.cancelEvents.resetAudio.resetNoise.resetFrameSequencer.finishPull with
  | error r =>
    rw [hu] at h
    cases h
  | ok u =>
    rw [hu] at h
    cases h
    exact ⟨u, hu, rfl⟩

/-! ### What an instruction leaves unchanged -/

theorem exec_evGenerate_frame {s t : State} (h : exec .evGenerate s = .next t) :
    t = { s with noise := t.noise, sched := t.sched, out := t.out, draws := t.draws } := by
  obtain ⟨e, -, rfl⟩ := exec_evGenerate_next h
  unfold generateBody
  split <;> rfl

theorem seqLength_frame (s : State) :
    s.seqLength = { s with seq := s.seqLength.seq, out := s.seqLength.out } := by
  unfold State.seqLength
  split <;> rfl

theorem seqEnvelope_frame (s : State) :
    s.seqEnvelope = { s with seq := s.seqEnvelope.seq, out := s.seqEnvelope.out } := by
  unfold State.seqEnvelope
  split <;> rfl

theorem exec_evSeq_frame {s t : State} (h : exec .evSeq s = .next t) :
    t = { s with seq := t.seq, sched := t.sched, out := t.out, draws := t.draws } := by
  obtain ⟨e, -, rfl⟩ := exec_evSeq_next h
  unfold seqBody
  rw [seqEnvelope_frame, seqLength_frame]
  rfl

theorem exec_evTick_frame {s t : State} (h : exec .evTick s = .next t) :
    t =
      { s with
        audio := { s.audio with resolutionOld := s.audio.resolution }
        sched := t.sched, rs := t.rs, rb := t.rb, pull := t.pull, out := t.out, draws := t.draws } := by
  obtain ⟨e, u, -, hu, rfl⟩ := exec_evTick_next h
  have hpush := pushFrame_hostOnly hu
  have haudio := retune_audio (s.beginFiring e)
  rw [hpush]
  simp [State.schedule, State.drawn, haudio]

theorem exec_hostPull_hostOnly {n : Nat} {s t : State} (h : exec (.hostPull n) s = .next t) :
    HostOnly s t := by
  obtain ⟨-, -, u, hu, ht⟩ := exec_hostPull_next h
  exact ((finishPull_hostOnly hu).trans (beginPull_hostOnly u _)).trans (runPull_hostOnly _ ht)

theorem drain_frame (i : FifoId) (k : Nat) (s : State) :
    drain i k s =
      { s with
        audio := { s.audio with latch := (drain i k s).audio.latch }
        fifos := (drain i k s).fifos, out := (drain i k s).out, draws := (drain i k s).draws } := by
  induction k generalizing s with
  | zero => rfl
  | succ k ih =>
    have hone : s.drainOne i =
        { s with
          audio := { s.audio with latch := (s.drainOne i).audio.latch }
          fifos := (s.drainOne i).fifos, out := (s.drainOne i).out, draws := (s.drainOne i).draws } := by
      unfold State.drainOne State.latchOldest
      split <;> split <;> rfl
    rw [drain, ih, hone]

theorem exec_latchFifo (i : FifoId) (k : Nat) (s : State) :
    exec (.latchFifo i k) s = .next (drain i k (s.takeArrivals i)) := rfl

theorem exec_latchFifo_frame {i : FifoId} {k : Nat} {s t : State}
    (h : exec (.latchFifo i k) s = .next t) :
    t =
      { s with
        audio := { s.audio with latch := t.audio.latch }
        fifos := t.fifos, out := t.out, draws := t.draws } := by
  rw [exec_latchFifo] at h
  cases h
  rw [drain_frame]
  rfl

theorem resetFrameSequencer_frame (s : State) :
    s.resetFrameSequencer =
      { s with seq := s.resetFrameSequencer.seq, sched := s.resetFrameSequencer.sched } := by
  unfold State.resetFrameSequencer
  split <;> rfl

theorem resetBlock_frame (s : State) :
    s.resetBlock =
      { s with
        noise := s.resetBlock.noise, seq := s.resetBlock.seq
        audio := s.resetBlock.audio, sched := s.resetBlock.sched } := by
  unfold State.resetBlock
  rw [resetFrameSequencer_frame]
  rfl

theorem exec_reset_frame {s t : State} (h : exec .reset s = .next t) :
    t =
      { s with
        noise := t.noise, seq := t.seq, audio := t.audio, sched := t.sched, rb := t.rb, rs := t.rs
        pull := t.pull, out := t.out, draws := t.draws } := by
  obtain ⟨u, hu, rfl⟩ := exec_reset_next h
  have hfinish := finishPull_hostOnly hu
  rw [resetBlock_frame] at hfinish
  rw [hfinish]
  rfl

/-- A register-window transaction changes `N`, `S` and the outputs alone (R178). -/
theorem exec_window_frame {i : Instr} {s t : State} (hw : windowTransaction i = true)
    (h : exec i s = .next t) : t = { s with noise := t.noise, seq := t.seq, out := t.out } := by
  obtain ⟨o, rfl⟩ | ⟨o, d, rfl⟩ := windowTransaction_cases hw
  · rw [exec_noiseRead] at h
    cases h
    rfl
  · obtain ⟨f, g, hwrite⟩ := exec_noiseWrite_acts o d
    rw [hwrite] at h
    cases h
    rfl

/-- The instructions in which HOST has steps or the device is closed (R319, R351, R352). -/
def involvesHost : Instr → Bool
  | .hostPull _ => true
  | .reset => true
  | .evTick => true
  | _ => false

/-- Every other instruction leaves alone what HOST works with, the resampler and the recorded
resolution. -/
theorem exec_frame_of_no_host {i : Instr} {s t : State} (h : exec i s = .next t)
    (hi : involvesHost i = false) :
    t =
      { s with
        noise := t.noise, seq := t.seq, sched := t.sched, fifos := t.fifos, out := t.out
        draws := t.draws
        audio :=
          { t.audio with
            resolutionOld := s.audio.resolutionOld, deviceOk := s.audio.deviceOk } } := by
  by_cases hwindow : windowTransaction i = true
  · rw [exec_window_frame hwindow h]
  cases i with
  | latchFifo i k => rw [exec_latchFifo_frame h]
  | evGenerate => rw [exec_evGenerate_frame h]
  | evSeq => rw [exec_evSeq_frame h]
  | biasWr l r => cases h; rfl
  | evLengthClock => cases h; rfl
  | evEnvelopeClock => cases h; rfl
  | hostPull n => cases hi
  | reset => cases hi
  | evTick => cases hi
  | _ => exact absurd rfl hwindow

/-! ### The noise channel -/

/-- The two paths of a `GENERATE`, as the noise channel sees them (R201, R203 to R213). -/
theorem exec_evGenerate_noise {s t : State} (h : exec .evGenerate s = .next t) :
    (lengthExpired s.noise s.seq = true ∧ t.noise = { s.noise with enabled := false, sample := 0 }) ∨
    (lengthExpired s.noise s.seq = false ∧
      t.noise =
        { s.noise with
          lfsr := lfsrSkip s.noise.width (1 + s.noise.skipCount) s.noise.lfsr
          sample := scaledSample (lfsrStep s.noise.width s.noise.lfsr).1 s
          skipCount := (nextTiming s).1 }) := by
  obtain ⟨e, -, rfl⟩ := exec_evGenerate_next h
  unfold generateBody
  split
  · next hgate => exact .inl ⟨hgate, rfl⟩
  · next hgate =>
    refine .inr ⟨Bool.eq_false_of_not_eq_true hgate, ?_⟩
    rw [lfsrSkip_one_add]
    rfl

theorem lengthExpired_eq_true_iff (n : Noise) (q : Sequencer) :
    lengthExpired n q = true ↔ n.lengthEnable = true ∧ q.length = 0 := by
  rw [lengthExpired, Bool.and_eq_true, decide_eq_true_iff]

/-- The noise channel after a reset (R360). -/
theorem resetBlock_noise (s : State) : s.resetBlock.noise = State.reset.noise := by
  rw [State.resetBlock, State.resetFrameSequencer_noise]
  rfl

theorem exec_reset_noise {s t : State} (h : exec .reset s = .next t) :
    t.noise = State.reset.noise := by
  obtain ⟨u, hu, rfl⟩ := exec_reset_next h
  exact (finishPull_hostOnly hu).noise.trans (resetBlock_noise s)

/-! ### A reset outside the scheduler -/

theorem exec_reset_of_finishPull {s u : State} (h : s.resetBlock.finishPull = .ok u) :
    exec .reset s = .next u.reopen.giveStatus := by
  rw [State.resetBlock] at h
  simp only [exec, execReset, State.resetDevice, h]

/-- The Sequencer after a reset; the step stays where no `SEQ` event moves it (R70, log entry 20). -/
theorem exec_reset_seq {s t : State} (h : exec .reset s = .next t) :
    t.seq =
      { State.reset.seq with
        fsStep := if s.params.seqSchedule = .fs512 then 0 else s.seq.fsStep } := by
  obtain ⟨u, hu, rfl⟩ := exec_reset_next h
  refine (finishPull_hostOnly hu).seq.trans ?_
  unfold State.resetBlock State.resetFrameSequencer
  rw [State.resetNoise_params, State.resetAudio_params, State.cancelEvents_params]
  cases s.params.seqSchedule <;> rfl

/-- The Audio Unit after a reset, but for the device (R70, R360). -/
theorem exec_reset_audio {s t : State} (h : exec .reset s = .next t) :
    t.audio = { State.reset.audio with deviceOk := t.audio.deviceOk } := by
  obtain ⟨u, hu, rfl⟩ := exec_reset_next h
  have hblock : s.resetBlock.audio = { State.reset.audio with deviceOk := s.audio.deviceOk } := by
    rw [State.resetBlock, State.resetFrameSequencer_audio]
    rfl
  rw [State.giveStatus_audio, State.reopen, State.drawn_audio, (finishPull_hostOnly hu).audio, hblock]

theorem exec_reset_rs {s t : State} (h : exec .reset s = .next t) :
    t.rs = s.rs.atReset (generationRate 0) s.params.hostRate := by
  obtain ⟨u, hu, rfl⟩ := exec_reset_next h
  have honly := finishPull_hostOnly hu
  rw [State.giveStatus_rs, State.reopen_rs, honly.rs, honly.params, resetBlock_frame]

theorem exec_reset_ring {s t : State} (h : exec .reset s = .next t) : t.rb = [] ∧ t.pull = none := by
  obtain ⟨u, hu, rfl⟩ := exec_reset_next h
  have hpull : u.pull = none := finishPull_pull hu
  exact ⟨rfl, hpull⟩

/-! ### The scheduler -/

/-- The period at which an event of a kind re-arms, from the registers as they stand when it fires
(R202, R213, R258, R288). -/
def State.eventPeriod (s : State) : EventKind → Nat
  | .tick => mixerInterval s.audio.resolution
  | .seq => seqPeriod
  | .generate => if lengthExpired s.noise s.seq then baseInterval else (nextTiming s).2

/-- `Schedule` of the period less the lateness re-arms at the old deadline plus the period (R340). -/
theorem schedule_beginFiring_sched (s : State) (e : Event) (k : EventKind) (period : Nat) :
    ((s.beginFiring e).schedule k
        ((period : Int) - (s.firingCycle e.deadline - e.deadline : Nat))).sched =
      { now := s.firingCycle e.deadline
        pending := s.sched.pending.erase e ++ [⟨k, e.deadline + period, s.sched.nextReg⟩]
        nextReg := s.sched.nextReg + 1 } := by
  have hdeadline := rearm_deadline (period := period) (firingCycle_ge s e.deadline).2
  simp only [State.schedule, State.beginFiring, hdeadline]

theorem schedule_sched_congr {s t : State} (h : s.sched = t.sched) (k : EventKind) (d : Int) :
    (s.schedule k d).sched = (t.schedule k d).sched := by
  simp only [State.schedule, h]

theorem generateBody_sched (late : Nat) (s : State) :
    (generateBody late s).sched =
      (s.schedule .generate ((s.eventPeriod .generate : Int) - late)).sched := by
  unfold generateBody State.eventPeriod
  split <;> rfl

theorem seqBody_sched (late : Nat) (s : State) :
    (seqBody late s).sched = (s.schedule .seq ((s.eventPeriod .seq : Int) - late)).sched :=
  schedule_sched_congr (by simp) .seq _

/-- The firing of an event takes its entry out and registers one at its old deadline plus its period,
whatever its kind (R340, R341). -/
theorem exec_event_sched {k : EventKind} {s t : State} (h : exec k.instr s = .next t) :
    ∃ e, earliest (s.eventsOf k) = some e ∧
      t.sched =
        { now := s.firingCycle e.deadline
          pending :=
            s.sched.pending.erase e ++ [⟨k, e.deadline + s.eventPeriod k, s.sched.nextReg⟩]
          nextReg := s.sched.nextReg + 1 } := by
  cases k with
  | generate =>
    obtain ⟨e, he, rfl⟩ := exec_evGenerate_next h
    exact ⟨e, he, (generateBody_sched _ _).trans (schedule_beginFiring_sched s e _ _)⟩
  | seq =>
    obtain ⟨e, he, rfl⟩ := exec_evSeq_next h
    exact ⟨e, he, (seqBody_sched _ _).trans (schedule_beginFiring_sched s e _ _)⟩
  | tick =>
    obtain ⟨e, u, he, hu, rfl⟩ := exec_evTick_next h
    have hsched : u.sched = (s.beginFiring e).sched := by simpa using (pushFrame_hostOnly hu).sched
    exact ⟨e, he,
      (schedule_sched_congr (s := u.drawn) hsched .tick _).trans (schedule_beginFiring_sched s e _ _)⟩

/-- The events that a reset arms (R360). -/
def resetEvents (schedule : SeqSchedule) (now nextReg : Nat) : List Event :=
  [⟨.tick, now + 512, nextReg⟩, ⟨.generate, now + 14680064, nextReg + 1⟩] ++
    if schedule = .fs512 then [⟨.seq, now + 32768, nextReg + 2⟩] else []

theorem resetBlock_sched (s : State) :
    s.resetBlock.sched =
      { now := s.sched.now
        pending := resetEvents s.params.seqSchedule s.sched.now s.sched.nextReg
        nextReg :=
          s.sched.nextReg + (resetEvents s.params.seqSchedule s.sched.now s.sched.nextReg).length } := by
  have htick : (mixerInterval 0 : Int) = ((512 : Nat) : Int) := rfl
  have hgenerate : (baseInterval : Int) = ((14680064 : Nat) : Int) := by rw [baseInterval_eq]
  have hseq : (seqPeriod : Int) = ((32768 : Nat) : Int) := rfl
  unfold State.resetBlock State.resetFrameSequencer resetEvents
  rw [State.resetNoise_params, State.resetAudio_params, State.cancelEvents_params]
  cases s.params.seqSchedule with
  | fs512 =>
    simp only [State.schedule, State.resetNoise, State.resetSequencer, State.resetAudio,
      State.cancelEvents, htick, hgenerate, hseq, ← Int.natCast_add, Int.toNat_natCast]
    rfl
  | external =>
    simp only [State.schedule, State.resetNoise, State.resetSequencer, State.resetAudio,
      State.cancelEvents, htick, hgenerate, ← Int.natCast_add, Int.toNat_natCast]
    rfl

theorem exec_reset_sched {s t : State} (h : exec .reset s = .next t) :
    t.sched =
      { now := s.sched.now
        pending := resetEvents s.params.seqSchedule s.sched.now s.sched.nextReg
        nextReg :=
          s.sched.nextReg + (resetEvents s.params.seqSchedule s.sched.now s.sched.nextReg).length } := by
  obtain ⟨u, hu, rfl⟩ := exec_reset_next h
  exact (finishPull_hostOnly hu).sched.trans (resetBlock_sched s)

/-- The instructions that the scheduler does not fire, a reset apart, leave the scheduler as it is. -/
theorem exec_sched_of_other {i : Instr} {s t : State} (h : exec i s = .next t)
    (hevent : ∀ k : EventKind, i ≠ k.instr) (hreset : i ≠ .reset) : t.sched = s.sched := by
  by_cases hwindow : windowTransaction i = true
  · rw [exec_window_frame hwindow h]
  cases i with
  | biasWr l r => cases h; rfl
  | latchFifo i k => rw [exec_latchFifo_frame h]
  | hostPull n => exact (exec_hostPull_hostOnly h).sched
  | evLengthClock => cases h; rfl
  | evEnvelopeClock => cases h; rfl
  | reset => exact absurd rfl hreset
  | evGenerate => exact absurd rfl (hevent .generate)
  | evTick => exact absurd rfl (hevent .tick)
  | evSeq => exact absurd rfl (hevent .seq)
  | _ => exact absurd rfl hwindow

/-! ### Outputs and draws -/

theorem drainOne_grows (s : State) (i : FifoId) : Grows s (s.drainOne i) := by
  refine ⟨?_, ?_⟩
  · rw [drainOne_out]
    exact List.prefix_append _ _
  · unfold State.drainOne State.latchOldest
    split <;> split <;> simp

theorem drain_grows (i : FifoId) (k : Nat) (s : State) : Grows s (drain i k s) := by
  induction k generalizing s with
  | zero => exact .refl s
  | succ k ih => exact (drainOne_grows s i).trans (ih _)

theorem beginFiring_grows (s : State) (e : Event) : Grows s (s.beginFiring e) :=
  ⟨List.prefix_append _ _, Nat.le_succ _⟩

theorem generateBody_grows (late : Nat) (s : State) : Grows s (generateBody late s) := by
  unfold generateBody
  split <;> exact .refl s

theorem seqLength_grows (s : State) : Grows s s.seqLength := by
  unfold State.seqLength
  split
  · exact ⟨List.prefix_append _ _, Nat.le_refl _⟩
  · exact .refl s

theorem seqEnvelope_grows (s : State) : Grows s s.seqEnvelope := by
  unfold State.seqEnvelope
  split
  · exact ⟨List.prefix_append _ _, Nat.le_refl _⟩
  · exact .refl s

theorem seqBody_grows (late : Nat) (s : State) : Grows s (seqBody late s) :=
  (seqLength_grows s).trans (seqEnvelope_grows s.seqLength)

theorem retune_grows (s : State) : Grows s s.retune :=
  ⟨by rw [State.retune_out], by rw [State.retune_draws]⟩

theorem resetBlock_grows (s : State) : Grows s s.resetBlock := by
  rw [resetBlock_frame]
  exact .refl s

/-- No instruction takes back an output or a draw. -/
theorem exec_grows {i : Instr} {s t : State} (h : exec i s = .next t) : Grows s t := by
  by_cases hwindow : windowTransaction i = true
  · obtain ⟨o, rfl⟩ | ⟨o, d, rfl⟩ := windowTransaction_cases hwindow
    · rw [exec_noiseRead] at h
      cases h
      exact ⟨List.prefix_append _ _, Nat.le_refl _⟩
    · obtain ⟨f, g, hwrite⟩ := exec_noiseWrite_acts o d
      rw [hwrite] at h
      cases h
      exact .refl s
  cases i with
  | biasWr l r => cases h; exact .refl s
  | latchFifo i k =>
    cases h
    exact Grows.trans (t := s.takeArrivals i) ⟨List.prefix_refl _, Nat.le_succ _⟩ (drain_grows i k _)
  | hostPull n =>
    obtain ⟨-, -, u, hu, ht⟩ := exec_hostPull_next h
    exact ((finishPull_grows hu).trans (beginPull_grows u _)).trans (runPull_grows _ ht)
  | reset =>
    obtain ⟨u, hu, rfl⟩ := exec_reset_next h
    refine ((resetBlock_grows s).trans (finishPull_grows hu)).trans ⟨?_, Nat.le_succ _⟩
    exact List.prefix_append u.out _
  | evGenerate =>
    obtain ⟨e, -, rfl⟩ := exec_evGenerate_next h
    exact (beginFiring_grows s e).trans (generateBody_grows _ _)
  | evTick =>
    obtain ⟨e, u, -, hu, rfl⟩ := exec_evTick_next h
    exact (((beginFiring_grows s e).trans (retune_grows _)).trans (pushFrame_grows hu)).trans
      (drawn_grows u)
  | evSeq =>
    obtain ⟨e, -, rfl⟩ := exec_evSeq_next h
    exact (beginFiring_grows s e).trans (seqBody_grows _ _)
  | evLengthClock => cases h; exact .refl s
  | evEnvelopeClock => cases h; exact .refl s
  | _ => exact absurd rfl hwindow

theorem exec_params_program {i : Instr} {s t : State} (h : exec i s = .next t) :
    t.params = s.params ∧ t.program = s.program := by
  cases i with
  | hostPull n => exact ⟨(exec_hostPull_hostOnly h).params, (exec_hostPull_hostOnly h).program⟩
  | reset => rw [exec_reset_frame h]; exact ⟨rfl, rfl⟩
  | evTick => rw [exec_evTick_frame h]; exact ⟨rfl, rfl⟩
  | _ => rw [exec_frame_of_no_host h rfl]; exact ⟨rfl, rfl⟩

theorem exec_now_of_issued {i : Instr} {schedule : SeqSchedule} {s t : State}
    (hi : mayIssue schedule i = true) (h : exec i s = .next t) : t.sched.now = s.sched.now := by
  by_cases hreset : i = .reset
  · subst hreset
    rw [exec_reset_sched h]
  · have hevent (k : EventKind) : i ≠ k.instr := by
      rintro rfl
      cases k <;> cases hi
    rw [exec_sched_of_other h hevent hreset]

theorem exec_now_of_clock {c : Clock} {s t : State} (h : exec c.instr s = .next t) :
    t.sched.now = s.sched.now := by
  refine exec_now_of_issued (schedule := .external) ?_ h
  cases c <;> rfl

/-- The earliest event of a kind is no later than any event of the kind. -/
theorem earliest_eventsOf_le {s : State} {e x : Event}
    (h : earliest (s.eventsOf x.kind) = some e) (hx : x ∈ s.sched.pending) :
    e.deadline ≤ x.deadline := by
  have := earliest_least h x (by simp [State.eventsOf, hx])
  omega

/-! ### The statements about a step -/

/-- Settles O52: HOST moves no clock, the external frame sequencer's clock and the listed word come at
their own cycles, and a firing is cut off at the next pair's. -/
theorem timeNeverRunsBack : Obligations.TimeNeverRunsBack := by
  intro s t h
  obtain ⟨hhost, hstep⟩ | ⟨-, hclock, hexec⟩ | ⟨x, hx, hbefore, hexec⟩ |
    ⟨c, w, rest, i, hp, hnow, hi, hexec⟩ := step_next_cases h
  · rw [(hostStep_hostOnly hstep).sched, State.advance_sched]
    refine ⟨Nat.le_refl _, fun c w rest _ hlate => ?_⟩
    obtain hno | hle := hlate
    · rw [hhost] at hno
      cases hno
    · exact hle
  · obtain ⟨-, hge, hle⟩ := clockMoves_bounds hclock
    rw [exec_now_of_clock hexec, State.atClock_now]
    exact ⟨hge, fun c w rest hp _ => hle c w rest hp⟩
  · obtain ⟨e, he, hsched⟩ := exec_event_sched hexec
    have hle : e.deadline ≤ x.deadline := earliest_eventsOf_le he (chosenEvent_least hx).1
    rw [hsched]
    refine ⟨(firingCycle_ge s.advance e.deadline).1, fun c w rest hp _ => ?_⟩
    obtain ⟨hnow, hxc⟩ := hbefore c w rest hp
    exact firingCycle_le_next s.advance e.deadline c w rest hp hnow (hle.trans hxc)
  · rw [exec_now_of_issued hi hexec]
    refine ⟨hnow, fun c' w' rest' hp' _ => ?_⟩
    rw [hp] at hp'
    cases hp'
    exact Nat.le_refl c

/-- What a step does around the instruction it runs: it draws, and drops at most the first pair. -/
theorem step_keeps_of_exec {i : Instr} {s u t : State} (h : exec i u = .next t)
    (hparams : u.params = s.params) (hout : u.out = s.out) (hdraws : u.draws = s.draws + 1)
    (hprogram : u.program = s.program ∨ u.program = s.program.tail) :
    t.params = s.params ∧ s.out <+: t.out ∧
      (t.program = s.program ∨ t.program = s.program.tail) ∧ s.draws < t.draws := by
  obtain ⟨hp, hpr⟩ := exec_params_program h
  obtain ⟨ho, hd⟩ := exec_grows h
  rw [hp, hpr, ← hout]
  exact ⟨hparams, ho, hprogram, by omega⟩

/-- Settles O54: HOST's step and every instruction keep the parameters and the program and only add
outputs and draws. -/
theorem stepKeepsParametersAndOutputs : Obligations.StepKeepsParametersAndOutputs := by
  intro s t h
  obtain ⟨-, hstep⟩ | ⟨-, -, hexec⟩ | ⟨x, -, -, hexec⟩ | ⟨c, w, rest, i, -, -, -, hexec⟩ :=
    step_next_cases h
  · obtain ⟨hout, hdraws⟩ := hostStep_grows hstep
    have honly := hostStep_hostOnly hstep
    exact ⟨honly.params, hout, .inl honly.program, hdraws⟩
  · exact step_keeps_of_exec hexec rfl rfl rfl (.inl rfl)
  · exact step_keeps_of_exec hexec rfl rfl rfl (.inl rfl)
  · exact step_keeps_of_exec hexec rfl rfl rfl (.inr rfl)

/-! ### Who writes which piece of the state -/

theorem triggerBit_eq_true_iff (d : Byte) : triggerBit d = true ↔ 128 ≤ d.toNat := by
  have hlt := d.isLt
  have hbit : triggerBit d = decide (d.toNat / 128 % 2 = 1) := Nat.testBit_eq_decide_div_mod_eq
  rw [hbit, decide_eq_true_iff]
  omega

/-- Settles O45: of the instructions, the register window, the bias write and the clocks are written
out, and every other one has its frame. -/
theorem stateIsWrittenOnlyByItsWriters : Obligations.StateIsWrittenOnlyByItsWriters := by
  intro i s t h
  cases i with
  | noiseWr5 d =>
    rw [exec_noiseWr5] at h
    by_cases ht : triggerBit d = true
    · rw [if_pos ht] at h
      cases h
      simp [State.trigger_eq, triggerNoise, restartSequencer, (triggerBit_eq_true_iff d).mp ht]
    · rw [if_neg ht] at h
      cases h
      simp
  | hostPull n =>
    rw [exec_hostPull_hostOnly h]
    simp
  | latchFifo i k =>
    rw [exec_latchFifo_frame h]
    simp
  | reset =>
    rw [exec_reset_frame h]
    simp
  | evGenerate =>
    rw [exec_evGenerate_frame h]
    obtain ⟨-, hnoise⟩ | ⟨-, hnoise⟩ := exec_evGenerate_noise h <;> simp [hnoise]
  | evTick =>
    rw [exec_evTick_frame h]
    simp
  | evSeq =>
    rw [exec_evSeq_frame h]
    simp
  | _ =>
    cases h
    simp [State.lengthClock, State.envelopeClock]

/-- Settles O44: only the offset-1 and offset-5 writes, a `GENERATE` and a reset change the flag, each as
its rule says. -/
theorem enabledFlagWriters : Obligations.EnabledFlagWriters := by
  intro i s t h
  cases i with
  | noiseWr1 d =>
    rw [exec_noiseWr1] at h
    cases h
    simp +contextual [enabledAfterEnvelope, dacFlag_eq_decide]
  | noiseWr5 d =>
    rw [exec_noiseWr5] at h
    by_cases ht : triggerBit d = true
    · rw [if_pos ht] at h
      cases h
      simp +contextual [State.trigger_eq, triggerNoise, enabledAfterTrigger,
        (triggerBit_eq_true_iff d).mp ht]
    · rw [if_neg ht] at h
      cases h
      simp +contextual
  | hostPull n =>
    rw [exec_hostPull_hostOnly h]
    simp +contextual
  | latchFifo i k =>
    rw [exec_latchFifo_frame h]
    simp +contextual
  | reset =>
    simp [exec_reset_noise h, State.reset]
  | evGenerate =>
    obtain ⟨hgate, hnoise⟩ | ⟨-, hnoise⟩ := exec_evGenerate_noise h
    · simp [hnoise, (lengthExpired_eq_true_iff _ _).mp hgate]
    · simp +contextual [hnoise]
  | evTick =>
    rw [exec_evTick_frame h]
    simp +contextual
  | evSeq =>
    rw [exec_evSeq_frame h]
    simp +contextual
  | _ =>
    cases h
    simp +contextual [State.lengthClock, State.envelopeClock]
end Sys2Proof.Machine
end

section
/-! PROOF. Every step keeps the invariant (spec 10_state.md R72): its four parts, the channel, the
schedule, HOST and the resampler's rates, each kept by every instruction. -/

namespace Sys2Proof.Machine

open Sys2Proof

/-! ### The parts of the invariant -/

/-- The ranges of the channel and the Sequencer (R37, R72). -/
structure ChannelSound (n : Noise) (q : Sequencer) : Prop where
  dac : n.dacEnable = false → n.enabled = false
  skip : n.skipCount ≤ 15
  length : q.length ≤ 64
  sampleLow : -120 ≤ n.sample
  sampleHigh : n.sample ≤ 120
  sampleEight : n.sample % 8 = 0

/-- How many events of a kind are pending in a reachable state (R72 item 5, R259). -/
def pendingCount (schedule : SeqSchedule) : EventKind → Nat
  | .generate => 1
  | .tick => 1
  | .seq => seqEvents schedule

/-- Each kind pending as often as it must be, under registration numbers that rise (R55, R72). -/
structure ScheduleSound (schedule : SeqSchedule) (pending : List Event) (nextReg : Nat) : Prop where
  counts : ∀ k, pending.countP (fun e => decide (e.kind = k)) = pendingCount schedule k
  regsRise : pending.Pairwise (fun a b => a.reg < b.reg)
  regsBelow : ∀ e ∈ pending, e.reg < nextReg

/-- The resampler's rates are those of the recorded resolution and of the host, and the parameters are
positive (R8, R281, R290). -/
structure RatesSound (s : State) : Prop where
  inRate : s.rs.inRate = generationRate s.audio.resolutionOld
  outRate : s.rs.outRate = s.params.hostRate
  hostRate : 0 < s.params.hostRate
  ringCapacity : 0 < s.params.ringCapacity

theorem eventsOf_length (s : State) (k : EventKind) :
    (s.eventsOf k).length = s.sched.pending.countP (fun e => decide (e.kind = k)) :=
  List.countP_eq_length_filter.symm

theorem invariant_iff (s : State) :
    Invariant s ↔
      ChannelSound s.noise s.seq ∧
        ScheduleSound s.params.seqSchedule s.sched.pending s.sched.nextReg ∧
        HostSound s ∧ RatesSound s := by
  constructor
  · intro h
    refine ⟨⟨h.dac, h.skip, h.length, h.sampleLow, h.sampleHigh, h.sampleEight⟩,
      ⟨fun k => ?_, h.regsRise, h.regsBelow⟩, ⟨h.ring, h.pullDevice, h.pullContract⟩,
      ⟨h.inRate, h.outRate, h.hostRate, h.ringCapacity⟩⟩
    rw [← eventsOf_length]
    cases k with
    | generate => exact h.generatePending
    | tick => exact h.tickPending
    | seq => exact h.seqPending
  · rintro ⟨hchannel, hschedule, hhost, hrates⟩
    have hcount (k : EventKind) := (eventsOf_length s k).trans (hschedule.counts k)
    exact
      { dac := hchannel.dac, skip := hchannel.skip, length := hchannel.length
        sampleLow := hchannel.sampleLow, sampleHigh := hchannel.sampleHigh
        sampleEight := hchannel.sampleEight
        generatePending := hcount .generate, tickPending := hcount .tick, seqPending := hcount .seq
        regsRise := hschedule.regsRise, regsBelow := hschedule.regsBelow
        ring := hhost.ring, pullDevice := hhost.device, pullContract := hhost.contract
        inRate := hrates.inRate, outRate := hrates.outRate
        hostRate := hrates.hostRate, ringCapacity := hrates.ringCapacity }

/-! ### The channel -/

/-- R37: eight times a volume, up or down. -/
theorem scaledSample_bounds {raw : Int} (s : State) (h : raw = 8 ∨ raw = -8) :
    -120 ≤ scaledSample raw s ∧ scaledSample raw s ≤ 120 ∧ scaledSample raw s % 8 = 0 := by
  have hvol := s.seq.env.currentVolume.isLt
  unfold scaledSample
  split
  · obtain rfl | rfl := h <;> omega
  · omega

theorem nextTiming_skip_le (s : State) : (nextTiming s).1 ≤ 15 :=
  skipAndPeriod_skip_le (interval_bounds _ _).1 (mixerInterval_bounds _).2

theorem clockLength_le (n : Noise) (q : Sequencer) : clockLength n q ≤ q.length := by
  unfold clockLength
  split <;> omega

theorem reset_channelSound : ChannelSound State.reset.noise State.reset.seq := by
  constructor <;> decide

namespace ChannelSound

variable {n : Noise} {q : Sequencer}

theorem withLength (h : ChannelSound n q) {q' : Sequencer} (hl : q'.length ≤ 64) :
    ChannelSound n q' :=
  ⟨h.dac, h.skip, hl, h.sampleLow, h.sampleHigh, h.sampleEight⟩

theorem withFlags (h : ChannelSound n q) {n' : Noise} (hs : n'.sample = n.sample)
    (hk : n'.skipCount = n.skipCount) (hd : n'.dacEnable = false → n'.enabled = false) :
    ChannelSound n' q :=
  ⟨hd, hk ▸ h.skip, h.length, hs ▸ h.sampleLow, hs ▸ h.sampleHigh, hs ▸ h.sampleEight⟩

end ChannelSound

theorem noiseWr1_channelSound {n : Noise} {q : Sequencer} (h : ChannelSound n q) (d : Byte) :
    ChannelSound { n with dacEnable := dacFlag d, enabled := enabledAfterEnvelope n d }
      { q with env := writeEnvelope q.env d } := by
  have hdac (hd : dacFlag d = false) : enabledAfterEnvelope n d = false := by
    rw [enabledAfterEnvelope, hd, Bool.and_false]
  exact ⟨hdac, h.skip, h.length, h.sampleLow, h.sampleHigh, h.sampleEight⟩

theorem trigger_channelSound {n : Noise} {q : Sequencer} (h : ChannelSound n q) :
    ChannelSound (triggerNoise n) (restartSequencer q) := by
  have hdac (hd : n.dacEnable = false) : enabledAfterTrigger n = false := by
    rw [enabledAfterTrigger, hd, h.dac hd, Bool.or_false]
  have hlength : (if q.length = 0 then 64 else q.length) ≤ 64 := by
    have := h.length
    split <;> omega
  exact ⟨hdac, h.skip, hlength, h.sampleLow, h.sampleHigh, h.sampleEight⟩

theorem exec_evGenerate_channelSound {s t : State} (h : ChannelSound s.noise s.seq)
    (hexec : exec .evGenerate s = .next t) : ChannelSound t.noise t.seq := by
  have hseq : t.seq = s.seq := by rw [exec_evGenerate_frame hexec]
  obtain ⟨-, hnoise⟩ | ⟨-, hnoise⟩ := exec_evGenerate_noise hexec
  · rw [hnoise, hseq]
    exact ⟨fun _ => rfl, h.skip, h.length, Int.neg_ofNat_le_natCast 120 0, Int.natCast_nonneg 120, rfl⟩
  · obtain ⟨hlow, hhigh, height⟩ := scaledSample_bounds s (lfsrStep_raw s.noise.width s.noise.lfsr)
    rw [hnoise, hseq]
    exact ⟨h.dac, nextTiming_skip_le s, h.length, hlow, hhigh, height⟩

theorem seqLength_length_le (s : State) : s.seqLength.seq.length ≤ s.seq.length := by
  unfold State.seqLength
  split
  · exact clockLength_le s.noise s.seq
  · exact Nat.le_refl _

theorem seqEnvelope_length (s : State) : s.seqEnvelope.seq.length = s.seq.length := by
  unfold State.seqEnvelope
  split <;> rfl

theorem exec_evSeq_length_le {s t : State} (h : exec .evSeq s = .next t) :
    t.seq.length ≤ s.seq.length := by
  obtain ⟨e, -, rfl⟩ := exec_evSeq_next h
  exact (seqEnvelope_length _).trans_le (seqLength_length_le _)

theorem exec_channelSound {i : Instr} {s t : State} (h : ChannelSound s.noise s.seq)
    (hexec : exec i s = .next t) : ChannelSound t.noise t.seq := by
  cases i with
  | noiseWr0 d =>
    rw [exec_noiseWr0] at hexec
    cases hexec
    exact h.withLength (Nat.sub_le 64 _)
  | noiseWr1 d =>
    rw [exec_noiseWr1] at hexec
    cases hexec
    exact noiseWr1_channelSound h d
  | noiseWr5 d =>
    have hbit : ChannelSound { s.noise with lengthEnable := lengthEnableBit d } s.seq :=
      h.withFlags rfl rfl h.dac
    rw [exec_noiseWr5] at hexec
    split at hexec
    · cases hexec
      exact trigger_channelSound hbit
    · cases hexec
      exact hbit
  | noiseWr4 d => cases hexec; exact h.withFlags rfl rfl h.dac
  | hostPull n => rw [exec_hostPull_hostOnly hexec]; exact h
  | latchFifo i k => rw [exec_latchFifo_frame hexec]; exact h
  | reset =>
    rw [exec_reset_noise hexec]
    exact reset_channelSound.withLength (by rw [exec_reset_seq hexec]; exact Nat.zero_le 64)
  | evGenerate => exact exec_evGenerate_channelSound h hexec
  | evTick => rw [exec_evTick_frame hexec]; exact h
  | evSeq =>
    rw [show t.noise = s.noise by rw [exec_evSeq_frame hexec]]
    exact h.withLength ((exec_evSeq_length_le hexec).trans h.length)
  | evLengthClock => cases hexec; exact h.withLength ((clockLength_le _ _).trans h.length)
  | evEnvelopeClock => cases hexec; exact h.withLength h.length
  | _ => cases hexec; exact h

/-! ### The schedule -/

theorem rearm_scheduleSound {schedule : SeqSchedule} {pending : List Event} {nextReg : Nat}
    {e : Event} (h : ScheduleSound schedule pending nextReg) (he : e ∈ pending) (deadline : Nat) :
    ScheduleSound schedule (pending.erase e ++ [⟨e.kind, deadline, nextReg⟩]) (nextReg + 1) where
  counts k := by
    rw [List.countP_append, List.countP_erase, h.counts, List.countP_singleton]
    by_cases hk : e.kind = k
    · have hpos : 0 < pending.countP (fun e => decide (e.kind = k)) :=
        List.countP_pos_iff.mpr ⟨e, he, decide_eq_true hk⟩
      rw [h.counts] at hpos
      simp only [he, hk, decide_true, and_true, if_true]
      omega
    · simp [hk]
  regsRise := by
    refine List.pairwise_append.mpr ⟨h.regsRise.sublist List.erase_sublist,
      List.pairwise_singleton _ _, fun a ha b hb => ?_⟩
    rw [List.mem_singleton.mp hb]
    exact h.regsBelow a (List.mem_of_mem_erase ha)
  regsBelow x hx := by
    obtain hx | hx := List.mem_append.mp hx
    · exact Nat.lt_succ_of_lt (h.regsBelow x (List.mem_of_mem_erase hx))
    · rw [List.mem_singleton.mp hx]
      exact Nat.lt_succ_self nextReg

theorem reset_scheduleSound (schedule : SeqSchedule) (now nextReg : Nat) :
    ScheduleSound schedule (resetEvents schedule now nextReg)
      (nextReg + (resetEvents schedule now nextReg).length) where
  counts k := by
    cases schedule <;> cases k <;> rfl
  regsRise := by
    cases schedule <;> simp [resetEvents]
  regsBelow := by
    cases schedule <;> simp [resetEvents]

theorem exec_scheduleSound {i : Instr} {s t : State}
    (h : ScheduleSound s.params.seqSchedule s.sched.pending s.sched.nextReg)
    (hexec : exec i s = .next t) :
    ScheduleSound t.params.seqSchedule t.sched.pending t.sched.nextReg := by
  rw [(exec_params_program hexec).1]
  by_cases hevent : ∃ k : EventKind, i = k.instr
  · obtain ⟨k, rfl⟩ := hevent
    obtain ⟨e, he, hsched⟩ := exec_event_sched hexec
    obtain ⟨hmem, rfl⟩ := earliest_eventsOf_mem he
    rw [hsched]
    exact rearm_scheduleSound h hmem _
  · by_cases hreset : i = .reset
    · subst hreset
      rw [exec_reset_sched hexec]
      exact reset_scheduleSound _ _ _
    · rw [exec_sched_of_other hexec (fun k hk => hevent ⟨k, hk⟩) hreset]
      exact h

/-! ### HOST -/

/-- HOST's part reads nothing but the ring buffer, the pull, the device flag and the capacity. -/
theorem HostSound.congr {s t : State} (h : HostSound s) (hrb : t.rb = s.rb) (hpull : t.pull = s.pull)
    (hdevice : t.audio.deviceOk = s.audio.deviceOk)
    (hcapacity : t.params.ringCapacity = s.params.ringCapacity) : HostSound t where
  ring := by rw [hrb, hcapacity]; exact h.ring
  device := by rw [hpull, hdevice]; exact h.device
  contract := by
    rw [State.pullInContract, hpull, hrb]
    exact h.contract

theorem beginPull_hostSound {s : State} (h : HostSound s) (hdevice : s.audio.deviceOk = true)
    (k : Nat) : HostSound (s.beginPull k) where
  ring := by rw [beginPull_rb, State.beginPull_params]; exact h.ring
  device _ := by rw [State.beginPull_audio]; exact hdevice
  contract := beginPull_contract h.contract k

theorem runPull_hostSound (k : Nat) {s t : State} (h : HostSound s) (ht : runPull k s = .ok t) :
    HostSound t := by
  induction k generalizing s with
  | zero => cases ht; exact h
  | succ k ih =>
    simp only [runPull] at ht
    split at ht
    · cases ht; exact h
    · next p hp =>
      split at ht
      · cases ht
      · next hstep => exact ih (pullStep_sound h hp hstep) ht

theorem exec_hostPull_hostSound {n : Nat} {s t : State} (h : HostSound s)
    (hexec : exec (.hostPull n) s = .next t) : HostSound t := by
  obtain ⟨hdevice, -, u, hu, ht⟩ := exec_hostPull_next hexec
  have hopen : u.audio.deviceOk = true := by rw [(finishPull_hostOnly hu).audio, hdevice]
  exact runPull_hostSound _ (beginPull_hostSound (finishPull_sound h hu) hopen _) ht

theorem exec_evTick_hostSound {s t : State} (h : HostSound s) (hexec : exec .evTick s = .next t) :
    HostSound t := by
  obtain ⟨e, u, -, hu, rfl⟩ := exec_evTick_next hexec
  have hretune : HostSound (s.beginFiring e).retune :=
    h.congr (State.retune_rb _) (State.retune_pull _) (State.retune_deviceOk _)
      (by rw [State.retune_params, State.beginFiring_params])
  exact (pushFrame_sound hretune hu).congr rfl rfl rfl rfl

theorem exec_reset_hostSound {s t : State} (hexec : exec .reset s = .next t) : HostSound t := by
  obtain ⟨hrb, hpull⟩ := exec_reset_ring hexec
  refine ⟨?_, ?_, ?_⟩
  · simp [hrb]
  · simp [hpull]
  · simp [State.pullInContract, hpull]

theorem exec_hostSound {i : Instr} {s t : State} (h : HostSound s) (hexec : exec i s = .next t) :
    HostSound t := by
  cases i with
  | hostPull n => exact exec_hostPull_hostSound h hexec
  | reset => exact exec_reset_hostSound hexec
  | evTick => exact exec_evTick_hostSound h hexec
  | _ => rw [exec_frame_of_no_host hexec rfl]; exact h.congr rfl rfl rfl rfl

/-! ### The rates -/

theorem RatesSound.congr {s t : State} (h : RatesSound s) (hrs : t.rs = s.rs)
    (hold : t.audio.resolutionOld = s.audio.resolutionOld) (hparams : t.params = s.params) :
    RatesSound t where
  inRate := by rw [hrs, hold]; exact h.inRate
  outRate := by rw [hrs, hparams]; exact h.outRate
  hostRate := by rw [hparams]; exact h.hostRate
  ringCapacity := by rw [hparams]; exact h.ringCapacity

/-- R281: step 1 of a Tick leaves the rates of the resolution it records. -/
theorem retune_ratesSound {s : State} (h : RatesSound s) : RatesSound s.retune := by
  unfold State.retune
  split
  · exact ⟨rfl, rfl, h.hostRate, h.ringCapacity⟩
  · exact h

theorem exec_evTick_ratesSound {s t : State} (h : RatesSound s) (hexec : exec .evTick s = .next t) :
    RatesSound t := by
  obtain ⟨e, u, -, hu, rfl⟩ := exec_evTick_next hexec
  have hretune := retune_ratesSound (s := s.beginFiring e) (h.congr rfl rfl rfl)
  have hpush : RatesSound
      { (s.beginFiring e).retune with
        rs := ((s.beginFiring e).retune.rs.push (s.beginFiring e).retune.params.resampler
          (s.beginFiring e).mix).1 } :=
    ⟨hretune.inRate, hretune.outRate, hretune.hostRate, hretune.ringCapacity⟩
  rw [pushFrame_hostOnly hu]
  exact hpush.congr rfl rfl rfl

theorem exec_reset_ratesSound {s t : State} (h : RatesSound s) (hexec : exec .reset s = .next t) :
    RatesSound t := by
  have hparams := (exec_params_program hexec).1
  have hrs := exec_reset_rs hexec
  refine ⟨?_, ?_, ?_, ?_⟩
  · rw [hrs, exec_reset_audio hexec]
    rfl
  · rw [hrs, hparams]
    rfl
  · rw [hparams]; exact h.hostRate
  · rw [hparams]; exact h.ringCapacity

theorem exec_ratesSound {i : Instr} {s t : State} (h : RatesSound s) (hexec : exec i s = .next t) :
    RatesSound t := by
  cases i with
  | hostPull n => rw [exec_hostPull_hostOnly hexec]; exact h.congr rfl rfl rfl
  | reset => exact exec_reset_ratesSound h hexec
  | evTick => exact exec_evTick_ratesSound h hexec
  | _ => rw [exec_frame_of_no_host hexec rfl]; exact h.congr rfl rfl rfl

/-! ### The step -/

theorem exec_keeps_invariant {i : Instr} {s t : State} (h : Invariant s)
    (hexec : exec i s = .next t) : Invariant t := by
  obtain ⟨hchannel, hschedule, hhost, hrates⟩ := (invariant_iff s).mp h
  exact (invariant_iff t).mpr ⟨exec_channelSound hchannel hexec, exec_scheduleSound hschedule hexec,
    exec_hostSound hhost hexec, exec_ratesSound hrates hexec⟩

/-- The clock, the program, the draws and who moves are no part of the invariant. -/
theorem Invariant.congr {s t : State} (h : Invariant s)
    (ht : t =
      { s with
        sched := { s.sched with now := t.sched.now }
        program := t.program, out := t.out, draws := t.draws, turn := t.turn }) : Invariant t := by
  obtain ⟨hchannel, hschedule, hhost, hrates⟩ := (invariant_iff s).mp h
  rw [ht]
  exact (invariant_iff _).mpr
    ⟨hchannel, hschedule, hhost.congr rfl rfl rfl rfl, hrates.congr rfl rfl rfl⟩

theorem hostStep_keeps_invariant {s t : State} (h : Invariant s) (he : s.hostEnabled = true)
    (ht : s.hostStep = .ok t) : Invariant t := by
  obtain ⟨hchannel, hschedule, hhost, hrates⟩ := (invariant_iff s).mp h
  have honly := hostStep_hostOnly ht
  refine (invariant_iff t).mpr ⟨?_, ?_, hostStep_sound hhost he ht,
    hrates.congr honly.rs (by rw [honly.audio]) honly.params⟩
  · rw [honly.noise, honly.seq]
    exact hchannel
  · rw [honly.params, honly.sched]
    exact hschedule

theorem hostEnabled_of_hostMoves {s : State} (h : s.hostMoves = true) : s.hostEnabled = true :=
  (Bool.and_eq_true_iff.mp h).2

/-- Settles O56: HOST's step keeps its own part and touches no other, and every other step is an
instruction, which keeps all four. -/
theorem stepKeepsInvariant : Obligations.StepKeepsInvariant := by
  intro s t h hstep
  obtain ⟨hhost, hstep⟩ | ⟨-, -, hexec⟩ | ⟨x, -, -, hexec⟩ | ⟨c, w, rest, i, -, -, -, hexec⟩ :=
    step_next_cases hstep
  · exact hostStep_keeps_invariant (s := s.advance) (h.congr rfl)
      (hostEnabled_of_hostMoves (s := s) hhost) hstep
  · exact exec_keeps_invariant (h.congr rfl) hexec
  · exact exec_keeps_invariant (h.congr rfl) hexec
  · exact exec_keeps_invariant (h.congr rfl) hexec

/-- Settles O57: the state after reset is given, but for `Config`'s positive parameters. -/
theorem resetStateMeetsInvariant : Obligations.ResetStateMeetsInvariant := by
  refine (invariant_iff State.reset).mpr ⟨reset_channelSound, reset_scheduleSound .fs512 0 0,
    ⟨Nat.zero_le _, by decide, ?_⟩, ⟨rfl, rfl, Nat.succ_pos _, Nat.succ_pos _⟩⟩
  intro p hp
  cases hp

end Sys2Proof.Machine
end

section
/-! PROOF. The register window's frequency and control writes, the bias write, the drain of a
direct-sound FIFO and the frame a Tick pushes (spec 40_noise_registers.md, 43_audio_unit.md). -/

namespace Sys2Proof.Machine

open Sys2Proof

/-! ### The register window -/

theorem exec_noiseWr4 (d : Byte) (s : State) :
    exec (.noiseWr4 d) s =
      .next
        { s with
          noise :=
            { s.noise with ratio := ratioField d, width := widthField d, shift := shiftField d } } :=
  rfl

/-- R111, R113: the frequency byte has the layout of the envelope byte. -/
theorem frequencyFields_eq (d : Byte) :
    ratioField d = dividerField d ∧ widthField d = directionField d ∧ shiftField d = volumeField d :=
  ⟨rfl, rfl, rfl⟩

/-- R113, R155: offset 4 reads back the byte written to it. -/
theorem frequencyByte_fields (n : Noise) (d : Byte) :
    frequencyByte
        { n with ratio := ratioField d, width := widthField d, shift := shiftField d } = d := by
  obtain ⟨hratio, hwidth, hshift⟩ := frequencyFields_eq d
  apply BitVec.eq_of_toNat_eq
  simp only [frequencyByte_eq_ofNat, hratio, hwidth, hshift, dividerField_toNat, directionField_toNat,
    volumeField_toNat, BitVec.toNat_ofNat]
  omega

/-- R114, R156: offset 5 reads back bit 6 alone. -/
theorem controlByte_of_lengthEnableBit {n : Noise} {d : Byte}
    (h : n.lengthEnable = lengthEnableBit d) : controlByte n = d &&& 0x40 := by
  rw [controlByte, h]
  exact (BitVec.and_twoPow d 6).symm

/-- Settles O7: the window at the offset holds what the write stored. -/
theorem writtenBytesReadBack : Obligations.WrittenBytesReadBack := by
  refine ⟨fun d s t h => ?_, fun d s t h => ?_, fun d s t h => ?_⟩
  · rw [exec_noiseWr1] at h
    cases h
    exact exec_noiseRead_gives 1 (envelopeByte_writeEnvelope s.seq.env d)
  · rw [exec_noiseWr4] at h
    cases h
    exact exec_noiseRead_gives 4 (frequencyByte_fields s.noise d)
  · refine exec_noiseRead_gives 5 (controlByte_of_lengthEnableBit ?_)
    rw [exec_noiseWr5] at h
    split at h <;> cases h <;> rfl

/-- Settles O12: no register is behind offsets 6 and 7. -/
theorem outsideOffsetsIgnoreWrites : Obligations.OutsideOffsetsIgnoreWrites := fun d s =>
  ⟨exec_noiseWrite_unused (o := 6) (by decide) d s, exec_noiseWrite_unused (o := 7) (by decide) d s,
    exec_noiseRead_gives 6 s.window_six, exec_noiseRead_gives 7 s.window_seven⟩

/-- Settles O13: the three fields by their arithmetic. -/
theorem frequencyWriteSetsFields : Obligations.FrequencyWriteSetsFields := by
  intro d s
  obtain ⟨hratio, hwidth, hshift⟩ := frequencyFields_eq d
  rw [exec_noiseWr4, hratio, hwidth, hshift, dividerField_eq_ofNat, directionField_eq_ofNat,
    volumeField_eq_ofNat]

/-- Settles O15: with bit 7 the state is `State.trigger`'s, whose seed and `Restart` the statement
writes out. -/
theorem triggerRestartsTheChannel : Obligations.TriggerRestartsTheChannel := by
  intro d s
  simp only [exec_noiseWr5, lengthEnableBit_eq_decide, triggerBit_eq_true_iff]
  rfl

/-! ### The bias write -/

/-- Settles O17: it is the write's definition. -/
theorem biasWriteStoresFields : Obligations.BiasWriteStoresFields := fun _ _ _ => rfl

/-! ### The drain of a direct-sound FIFO -/

/-- The latch holds the byte drained last. -/
theorem drain_latch (i : FifoId) (k : Nat) {s : State} (h : k < (s.fifos.get i).length) :
    some ((drain i (k + 1) s).audio.latch.get i) = (s.fifos.get i)[k]? := by
  induction k generalizing s with
  | zero =>
    cases hq : s.fifos.get i with
    | nil => simp [hq] at h
    | cons b rest => simp [drain, latchOldest_cons hq]
  | succ k ih =>
    have htail : ((s.drainOne i).fifos.get i) = (s.fifos.get i).tail := by
      rw [drainOne_fifos, latchOldest_fifo]
    have hk : k < ((s.drainOne i).fifos.get i).length := by
      rw [htail, List.length_tail]
      omega
    rw [drain, ih hk, htail, List.getElem?_tail]

/-- R276: of `k` drains those that leave 16 or fewer bytes ask for more, one pulse each. -/
theorem drain_out (i : FifoId) (k : Nat) (s : State) :
    (drain i k s).out =
      s.out ++
        List.replicate (k - ((s.fifos.get i).length - 17)) (s.sched.now, .dmaRequest i) := by
  induction k generalizing s with
  | zero => simp [drain]
  | succ k ih =>
    rw [drain, ih, drainOne_out, drainOne_fifos, latchOldest_fifo, List.length_tail,
      State.drainOne_sched, List.append_assoc]
    congr 1
    split
    · rw [List.singleton_append, ← List.replicate_succ]
      congr 1
      omega
    · rw [List.nil_append]
      congr 1
      omega

@[simp] theorem takeArrivals_fifo (s : State) (i : FifoId) :
    (s.takeArrivals i).fifos.get i = s.fifos.get i ++ s.arrivals i :=
  PerFifo_get_set _ _ _

/-- Settles O18: each clause is a lemma about `drain`, from the FIFO with its arrivals taken in. -/
theorem latchDrainsOldestBytes : Obligations.LatchDrainsOldestBytes := by
  intro i k s
  refine ⟨_, exec_latchFifo i k s, ?_, ?_, ?_, ?_, ?_, ?_, by simp, by simp, by simp, by simp, by simp,
    by simp, by simp, by simp, by simp⟩
  · rw [drain_fifo, takeArrivals_fifo]
  · rintro rfl
    rfl
  · intro hpos hle
    obtain ⟨j, rfl⟩ : ∃ j, k = j + 1 := ⟨k - 1, by omega⟩
    rw [drain_latch i j (by rw [takeArrivals_fifo]; omega), takeArrivals_fifo, Nat.add_sub_cancel]
  · intro j hj
    obtain ⟨hfifo, hlatch⟩ := drain_other i j hj k (s.takeArrivals i)
    exact ⟨hfifo.trans (PerFifo_get_set_of_ne _ _ hj), hlatch⟩
  · rw [drain_frame]
    rfl
  · rw [drain_out, takeArrivals_fifo, State.takeArrivals_out, State.takeArrivals_sched]

/-! ### The frame a Tick pushes -/

/-- The bytes the two square channels present (R283). -/
def State.squares (s : State) : PerFifo Byte :=
  match s.params.squares with
  | some q => q
  | none => ⟨Config.squareSample .fifo0 s.draws, Config.squareSample .fifo1 s.draws⟩

theorem squareSample_eq (s : State) (k : FifoId) : s.squareSample k = (s.squares.get k).toInt := by
  unfold State.squareSample State.squares
  cases s.params.squares with
  | some q => rfl
  | none => cases k <;> rfl

theorem squares_of_some {s : State} {q : PerFifo Byte} (h : s.params.squares = some q) :
    s.squares = q := by
  rw [State.squares, h]

theorem psg_eq (s : State) :
    s.psg = s.squares.zero.toInt + s.squares.one.toInt + s.noise.sample := by
  rw [State.psg, squareSample_eq, squareSample_eq]
  rfl

/-- R280, R285: the exact multiple of 1/512 is the sum of the two quotients. -/
theorem mixSide_eq (latch : Byte) (psg : Int) :
    mixSide latch psg = (latch.toInt : Rat) / 256 + (psg : Rat) / 512 := by
  rw [mixSide, Rat.mkRat_eq_div]
  push_cast
  ring

/-- Step 1 of a Tick with the rate written out (R281). -/
theorem retune_rs_eq (s : State) :
    s.retune.rs =
      if s.audio.resolution = s.audio.resolutionOld then s.rs
      else s.rs.configure (32768 * 2 ^ s.audio.resolution.toNat) s.params.hostRate := by
  rw [retune_rs, generationRate_eq]

/-- Settles O20: the frame is `State.mix`, and the push is `pushFrame_eq`, after the reconfiguration. -/
theorem tickPushesExactMix : Obligations.TickPushesExactMix := by
  intro s e hc he
  obtain ⟨u, hu, hexec⟩ := exec_evTick_of_contract hc he
  have hrs : u.rs = ((s.beginFiring e).retune.rs.push s.params.resampler (s.beginFiring e).mix).1 := by
    simpa using (pushFrame_hostOnly hu).rs
  have hr := retune_rs_eq (s.beginFiring e)
  refine ⟨_, (s.beginFiring e).squares, (s.beginFiring e).mix, hexec, fun q hq => squares_of_some hq,
    ?_, ?_, fun hid hrate => ?_, ?_, fun hd => ?_, u, ?_, rfl, rfl, rfl⟩
  · exact (mixSide_eq _ _).trans (by rw [psg_eq]; rfl)
  · exact (mixSide_eq _ _).trans (by rw [psg_eq]; rfl)
  · rw [hid]
    exact push_identity _ hrate
  · exact hrs.trans (by rw [hr]; rfl)
  · have hdisabled : (s.beginFiring e).retune.hostEnabled = false := (retune_hostEnabled _).trans hd
    rw [pushFrame_of_disabled hdisabled, hr, State.retune_rb, State.retune_params] at hu
    cases hu
    rfl
  · have hkernel : (s.beginFiring e).retune.params.resampler = s.params.resampler := by simp
    rw [pushFrame_eq, hr, hkernel] at hu
    exact hu

end Sys2Proof.Machine
end

section
/-! PROOF. The noise synthesis event beside its synthesis path: the timing in the arithmetic of the
spec, the mute, the disabled DAC and the zero LFSR; and the shift register's single step (spec
41_noise_generate.md). -/

namespace Sys2Proof.Machine

open Sys2Proof

/-! ### The firing -/

/-- A `GENERATE` fires wherever one is pending. -/
theorem exec_evGenerate_exists {s : State} (h : ∃ e ∈ s.sched.pending, e.kind = .generate) :
    ∃ t, exec .evGenerate s = .next t := by
  obtain ⟨e, he⟩ := earliest_eventsOf_exists h
  exact ⟨_, exec_evGenerate he⟩

/-- Outside the noise channel a `GENERATE` leaves the scheduler, its trace word and the draws. -/
theorem exec_evGenerate_out {s t : State} (h : exec .evGenerate s = .next t) :
    t.out = s.out ++ [(t.sched.now, .trace 0x8000)] := by
  obtain ⟨e, he, rfl⟩ := exec_evGenerate_next h
  have hkind : e.kind = .generate := (earliest_eventsOf_mem he).2
  have hout : (s.beginFiring e).out = s.out ++ [(s.firingCycle e.deadline, .trace 0x8000)] := by
    rw [State.beginFiring_out, hkind, EventKind.traceWord]
  unfold generateBody
  split <;> exact hout

/-- Settles O25: the length gate has run out, so the path is the mute. -/
theorem generateMutesExpiredChannel : Obligations.GenerateMutesExpiredChannel := by
  intro s hpending hlength hzero
  obtain ⟨t, ht⟩ := exec_evGenerate_exists hpending
  have hgate : lengthExpired s.noise s.seq = true :=
    (lengthExpired_eq_true_iff s.noise s.seq).mpr ⟨hlength, hzero⟩
  have hframe := exec_evGenerate_frame ht
  obtain ⟨-, hnoise⟩ | ⟨hpass, -⟩ := exec_evGenerate_noise ht
  · refine ⟨t, ht, hnoise, ?_, ?_, ?_, ?_, ?_, ?_, ?_, ?_, ?_, exec_evGenerate_out ht⟩ <;> rw [hframe]
  · rw [hgate] at hpass
    cases hpass

/-- Settles O26: the mute gives 0, and the synthesis path gates the sample by the DAC. -/
theorem generateSilencesDisabledDac : Obligations.GenerateSilencesDisabledDac := by
  intro s t h hdac
  obtain ⟨-, hnoise⟩ | ⟨-, hnoise⟩ := exec_evGenerate_noise h
  · rw [hnoise]
  · rw [hnoise] at hdac ⊢
    have hdac : s.noise.dacEnable = false := hdac
    simp [scaledSample, hdac]

/-! ### The timing -/

theorem interval_eq (r : BitVec 3) (n : BitVec 4) :
    interval r n = (if r = 0 then 32 else 64 * r.toNat) * 2 ^ n.toNat := by
  rw [interval, noiseBase, Nat.shiftLeft_eq, Nat.pow_succ]
  split
  · omega
  · rw [Nat.mul_comm (2 ^ n.toNat) 2, ← Nat.mul_assoc]
    congr 1
    omega

theorem mixerInterval_eq (r : BitVec 2) : mixerInterval r = 512 / 2 ^ r.toNat := by
  rw [mixerInterval, Nat.shiftRight_eq_div_pow]

theorem skipAndPeriod_eq (n m : Nat) :
    skipAndPeriod n m = (if n < m then m / n - 1 else 0, if n < m then m else n) := by
  unfold skipAndPeriod
  split <;> rfl

/-- Settles O23: the re-arm is that of `exec_event_sched`, and the two cases are those of
`skipAndPeriod`. -/
theorem generateTimingFollowsFrequency : Obligations.GenerateTimingFollowsFrequency := by
  intro s e he hgate
  have hpass := (lengthExpired_eq_false_iff s.noise s.seq).mpr hgate
  have ht := exec_evGenerate he
  obtain ⟨e', he', hsched⟩ := exec_event_sched (k := .generate) ht
  obtain rfl : e = e' := Option.some.inj (he.symm.trans he')
  have htiming : nextTiming s =
      skipAndPeriod ((if s.noise.ratio = 0 then 32 else 64 * s.noise.ratio.toNat) *
        2 ^ s.noise.shift.toNat) (512 / 2 ^ s.audio.resolution.toNat) := by
    rw [nextTiming, interval_eq, mixerInterval_eq]
  rw [skipAndPeriod_eq] at htiming
  refine ⟨_, ht, ?_, ?_⟩
  · obtain ⟨hexpired, -⟩ | ⟨-, hnoise⟩ := exec_evGenerate_noise ht
    · rw [hpass] at hexpired
      cases hexpired
    · rw [hnoise, htiming]
  · rw [hsched]
    simp only [State.eventPeriod, hpass, Bool.false_eq_true, if_false, htiming]

/-! ### The shift register -/

/-- Settles O22: the low bit is the parity, and the shift halves. -/
theorem lfsrStepShiftsAndFeedsBack : Obligations.LfsrStepShiftsAndFeedsBack := by
  refine ⟨rfl, rfl, fun w x => ?_⟩
  have hbit : x.getLsbD 0 = decide (x.toNat % 2 = 1) := by rw [BitVec.getLsbD, Nat.testBit_zero]
  have hhalf : x >>> 1 = BitVec.ofNat 15 (x.toNat / 2) := by
    apply BitVec.eq_of_toNat_eq
    simp only [BitVec.toNat_ushiftRight, BitVec.toNat_ofNat, Nat.shiftRight_eq_div_pow]
    omega
  refine ⟨fun hodd => ?_, fun heven => ?_⟩
  · rw [lfsrStep, hbit, hhalf, if_pos (decide_eq_true hodd)]
  · rw [lfsrStep, hbit, hhalf, if_neg (by simp [heven])]

/-- The new state of one step (R203). -/
theorem lfsrStep_snd (w : BitVec 1) (x : BitVec 15) :
    (lfsrStep w x).2 = (x >>> 1) ^^^ (if x.getLsbD 0 then lfsrMask w else 0) := by
  unfold lfsrStep
  split <;> simp

@[simp] theorem lfsrStep_zero (w : BitVec 1) : (lfsrStep w 0#15).2 = 0#15 := by
  simp [lfsrStep_snd]

@[simp] theorem lfsrSkip_zero_state (w : BitVec 1) (n : Nat) : lfsrSkip w n 0#15 = 0#15 := by
  induction n with
  | zero => rfl
  | succ n ih => rw [lfsrSkip, lfsrStep_zero, ih]

/-- Settles O27: the zero state stays, its low bit is 0, and the DAC lets the sample through. -/
theorem zeroLfsrStaysZero : Obligations.ZeroLfsrStaysZero := by
  intro s hpending hlfsr hdac hlength
  obtain ⟨t, ht⟩ := exec_evGenerate_exists hpending
  obtain ⟨hexpired, -⟩ | ⟨-, hnoise⟩ := exec_evGenerate_noise ht
  · rw [(lengthExpired_eq_true_iff _ _).mp hexpired |>.1] at hlength
    cases hlength
  · refine ⟨t, ht, ?_, ?_⟩
    · rw [hnoise, hlfsr]
      exact lfsrSkip_zero_state _ _
    · rw [hnoise, hlfsr]
      show scaledSample (lfsrStep s.noise.width 0).1 s = _
      rw [scaledSample, if_pos hdac]
      rfl

/-- R221: in 7-bit mode a step shifts the bits above bit 6 down and puts none in. -/
theorem lfsrStep_short_lt {x : BitVec 15} {k : Nat} (hk : 7 ≤ k) (h : x.toNat < 2 ^ (k + 1)) :
    (lfsrStep 1 x).2.toNat < 2 ^ k := by
  have hhalf : x.toNat / 2 < 2 ^ k := by
    rw [Nat.pow_succ] at h
    omega
  have hmask : (if x.getLsbD 0 then lfsrMask 1 else 0).toNat < 2 ^ k := by
    have h7 : 2 ^ 7 ≤ 2 ^ k := Nat.pow_le_pow_right (by decide) hk
    split
    · exact Nat.lt_of_lt_of_le (by decide) h7
    · exact Nat.two_pow_pos k
  rw [lfsrStep_snd, BitVec.toNat_xor, BitVec.toNat_ushiftRight, Nat.shiftRight_eq_div_pow]
  exact Nat.xor_lt_two_pow hhalf hmask

theorem lfsrSkip_short_lt (n : Nat) (x : BitVec 15) :
    (lfsrSkip 1 n x).toNat < 2 ^ (7 + (8 - n)) := by
  induction n with
  | zero => exact x.isLt
  | succ n ih =>
    rw [lfsrSkip_succ]
    refine lfsrStep_short_lt (by omega) (Nat.lt_of_lt_of_le ih ?_)
    exact Nat.pow_le_pow_right (by decide) (by omega)

/-- Settles O30: after eight steps `lfsrSkip_short_lt` leaves seven bits. -/
theorem shortModeForgetsHighBits : Obligations.ShortModeForgetsHighBits := by
  refine ⟨fun x n hn => ?_, rfl, rfl⟩
  have h := lfsrSkip_short_lt n x
  rwa [show 8 - n = 0 by omega] at h

end Sys2Proof.Machine
end

section
/-! PROOF. The period of the shift register (spec 41_noise_generate.md R208, R220). The step is linear
over XOR, and every state is a combination of the seed's successors, so that the step acts as a
multiplication in a ring in which the seed is 1: what `n` steps make of the seed says what they make of
every state, and `m` steps fix no nonzero state where the seed's successor `m` steps on, less the seed,
has an inverse. -/

namespace Sys2Proof.Machine

open Sys2Proof

/-! ### Periods in general -/

/-- A point that returns after `n` steps, and for no prime divisor `p` of `n` after `n / p`, returns no
sooner. -/
theorem iterate_ne_of_prime_divisors {α : Type} {f : α → α} {x : α} {n k : Nat}
    (hn : f^[n] x = x) (hp : ∀ p, p.Prime → p ∣ n → f^[n / p] x ≠ x) (hk : 0 < k) (hkn : k < n) :
    f^[k] x ≠ x := by
  intro h
  obtain ⟨q, hq⟩ : Function.minimalPeriod f x ∣ n :=
    Function.IsPeriodicPt.minimalPeriod_dvd (f := f) (x := x) hn
  have hle : Function.minimalPeriod f x ≤ k :=
    Function.IsPeriodicPt.minimalPeriod_le (f := f) (x := x) hk h
  have hq1 : q ≠ 1 := by
    rintro rfl
    omega
  obtain ⟨r, hr⟩ := Nat.minFac_dvd q
  have hprime := Nat.minFac_prime hq1
  generalize q.minFac = p at hr hprime
  have hdiv : n / p = Function.minimalPeriod f x * r := by
    rw [hq, hr, Nat.mul_left_comm, Nat.mul_div_cancel_left _ hprime.pos]
  refine hp p hprime ⟨Function.minimalPeriod f x * r, by rw [hq, hr, Nat.mul_left_comm]⟩ ?_
  rw [hdiv]
  exact (Function.isPeriodicPt_minimalPeriod f x).mul_const r

theorem lfsrSkip_eq_iterate (w : BitVec 1) (n : Nat) (x : BitVec 15) :
    lfsrSkip w n x = (fun y => (lfsrStep w y).2)^[n] x := by
  induction n generalizing x with
  | zero => rfl
  | succ n ih => exact ih _

/-! ### The step is linear -/

theorem lfsrStep_xor (w : BitVec 1) (x y : BitVec 15) :
    (lfsrStep w (x ^^^ y)).2 = (lfsrStep w x).2 ^^^ (lfsrStep w y).2 := by
  have hmask (p q : Bool) : (if (p ^^ q) = true then lfsrMask w else 0) =
      (if p = true then lfsrMask w else 0) ^^^ (if q = true then lfsrMask w else 0) := by
    cases p <;> cases q <;> simp
  simp only [lfsrStep_snd, BitVec.ushiftRight_xor_distrib, BitVec.getLsbD_xor, hmask]
  ac_rfl

/-- The combination of `z` and its successors that the bits of `y` below `n` select, bit `n - 1` selecting
`z`, bit `n - 2` its successor, and so on. -/
def lfsrCombine (w : BitVec 1) : Nat → BitVec 15 → BitVec 15 → BitVec 15
  | 0, _, _ => 0#15
  | n + 1, y, z => (if y.getLsbD n then z else 0) ^^^ lfsrCombine w n y (lfsrStep w z).2

theorem lfsrCombine_xor (w : BitVec 1) (n : Nat) (y a b : BitVec 15) :
    lfsrCombine w n y (a ^^^ b) = lfsrCombine w n y a ^^^ lfsrCombine w n y b := by
  induction n generalizing a b with
  | zero => simp [lfsrCombine]
  | succ n ih =>
    simp only [lfsrCombine, lfsrStep_xor, ih]
    split
    · ac_rfl
    · simp

@[simp] theorem lfsrCombine_zero (w : BitVec 1) (n : Nat) (y : BitVec 15) :
    lfsrCombine w n y 0#15 = 0#15 := by
  induction n with
  | zero => rfl
  | succ n ih => simp [lfsrCombine, ih]

theorem lfsrStep_combine (w : BitVec 1) (n : Nat) (y z : BitVec 15) :
    (lfsrStep w (lfsrCombine w n y z)).2 = lfsrCombine w n y (lfsrStep w z).2 := by
  induction n generalizing z with
  | zero => simp [lfsrCombine]
  | succ n ih =>
    simp only [lfsrCombine, lfsrStep_xor, ih]
    split <;> simp

theorem lfsrSkip_combine (w : BitVec 1) (k n : Nat) (y z : BitVec 15) :
    lfsrSkip w k (lfsrCombine w n y z) = lfsrCombine w n y (lfsrSkip w k z) := by
  induction k generalizing z with
  | zero => rfl
  | succ k ih => rw [lfsrSkip, lfsrStep_combine, ih, lfsrSkip]

theorem lfsrCombine_comm (w : BitVec 1) (m n : Nat) (c y z : BitVec 15) :
    lfsrCombine w m c (lfsrCombine w n y z) = lfsrCombine w n y (lfsrCombine w m c z) := by
  induction n generalizing z with
  | zero => simp [lfsrCombine]
  | succ n ih =>
    simp only [lfsrCombine, lfsrCombine_xor, ih, lfsrStep_combine]
    split <;> simp

/-! ### The seed is the unit -/

/-- How many bits a state of a width has. -/
def lfsrBits (w : BitVec 1) : Nat := if w = 0 then 15 else 7

/-- Multiplication of two states, the seed being the unit. -/
def lfsrMul (w : BitVec 1) (y z : BitVec 15) : BitVec 15 := lfsrCombine w (lfsrBits w) y z

theorem width_cases (w : BitVec 1) : w = 0 ∨ w = 1 := by
  revert w
  decide

theorem lfsrStep_twoPow (w : BitVec 1) {n : Nat} (hn : n + 1 < 15) :
    (lfsrStep w (BitVec.twoPow 15 (n + 1))).2 = BitVec.twoPow 15 n := by
  have hbit : (BitVec.twoPow 15 (n + 1)).getLsbD 0 = false := by simp
  rw [lfsrStep_snd, hbit, if_neg Bool.false_ne_true]
  apply BitVec.eq_of_getLsbD_eq
  intro i _
  have hshift : n + 1 = 1 + i ↔ n = i := by omega
  simp [BitVec.getLsbD_twoPow, hshift, hn, Nat.lt_of_succ_lt hn]

theorem getLsbD_ite_twoPow (b : Bool) {n : Nat} (hn : n < 15) (i : Nat) :
    (if b then BitVec.twoPow 15 n else 0).getLsbD i = (b && decide (n = i)) := by
  cases b <;> simp [BitVec.getLsbD_twoPow, hn]

theorem getLsbD_lfsrCombine_twoPow (w : BitVec 1) {n : Nat} (hn : n < 15) (y : BitVec 15) (i : Nat) :
    (lfsrCombine w (n + 1) y (BitVec.twoPow 15 n)).getLsbD i = (decide (i ≤ n) && y.getLsbD i) := by
  induction n with
  | zero =>
    rw [lfsrCombine, lfsrCombine, BitVec.xor_zero, getLsbD_ite_twoPow _ hn]
    cases i <;> simp
  | succ n ih =>
    rw [lfsrCombine, lfsrStep_twoPow w hn, BitVec.getLsbD_xor, getLsbD_ite_twoPow _ hn, ih (by omega)]
    by_cases hi : i = n + 1
    · simp [hi]
    · have hle : i ≤ n + 1 ↔ i ≤ n := by omega
      simp [Ne.symm hi, hle]

/-- The seed is the top bit of the width (R175). -/
theorem lfsrSeed_eq_twoPow (w : BitVec 1) :
    ∃ n, n < 15 ∧ lfsrBits w = n + 1 ∧ lfsrSeed w = BitVec.twoPow 15 n := by
  obtain rfl | rfl := width_cases w
  · exact ⟨14, by decide, rfl, rfl⟩
  · exact ⟨6, by decide, rfl, rfl⟩

theorem lfsrMul_seed (w : BitVec 1) {y : BitVec 15} (hy : y.toNat < 2 ^ lfsrBits w) :
    lfsrMul w y (lfsrSeed w) = y := by
  obtain ⟨n, hn, hbits, hseed⟩ := lfsrSeed_eq_twoPow w
  rw [hbits] at hy
  apply BitVec.eq_of_getLsbD_eq
  intro i _
  rw [lfsrMul, hbits, hseed, getLsbD_lfsrCombine_twoPow w hn]
  by_cases hi : i ≤ n
  · simp [hi]
  · have hzero : y.getLsbD i = false :=
      Nat.testBit_lt_two_pow (Nat.lt_of_lt_of_le hy (Nat.pow_le_pow_right (by decide) (by omega)))
    simp [hzero]

/-- `n` steps multiply by what they make of the seed. -/
theorem lfsrSkip_eq_mul (w : BitVec 1) (n : Nat) {y : BitVec 15} (hy : y.toNat < 2 ^ lfsrBits w) :
    lfsrSkip w n y = lfsrMul w y (lfsrSkip w n (lfsrSeed w)) := by
  conv_lhs => rw [← lfsrMul_seed w hy]
  exact lfsrSkip_combine w n _ _ _

/-- Where the seed's successor, less the seed, has an inverse, no nonzero state is fixed. -/
theorem lfsrSkip_ne_self {w : BitVec 1} {n : Nat} {c : BitVec 15}
    (hc : lfsrMul w c (lfsrSkip w n (lfsrSeed w) ^^^ lfsrSeed w) = lfsrSeed w) {y : BitVec 15}
    (hy : y.toNat < 2 ^ lfsrBits w) (h0 : y ≠ 0) : lfsrSkip w n y ≠ y := by
  intro h
  have hzero : lfsrMul w y (lfsrSkip w n (lfsrSeed w) ^^^ lfsrSeed w) = 0#15 := by
    have hmul := lfsrSkip_eq_mul w n hy
    have hseed := lfsrMul_seed w hy
    rw [lfsrMul] at hmul hseed ⊢
    rw [lfsrCombine_xor, ← hmul, hseed, h, BitVec.xor_self]
  have hcomm := lfsrCombine_comm w (lfsrBits w) (lfsrBits w) c y
    (lfsrSkip w n (lfsrSeed w) ^^^ lfsrSeed w)
  rw [← lfsrMul, ← lfsrMul, ← lfsrMul, ← lfsrMul, hzero, hc, lfsrMul_seed w hy, lfsrMul,
    lfsrCombine_zero] at hcomm
  exact h0 hcomm.symm

/-! ### The seed's successors -/

theorem lfsrStep_lt (w : BitVec 1) {x : BitVec 15} (h : x.toNat < 2 ^ lfsrBits w) :
    (lfsrStep w x).2.toNat < 2 ^ lfsrBits w := by
  obtain rfl | rfl := width_cases w
  · exact BitVec.isLt _
  · exact lfsrStep_short_lt (k := 7) (Nat.le_refl 7) (Nat.lt_trans h (by decide))

theorem lfsrSkip_seed_lt (w : BitVec 1) (n : Nat) :
    (lfsrSkip w n (lfsrSeed w)).toNat < 2 ^ lfsrBits w := by
  induction n with
  | zero =>
    obtain rfl | rfl := width_cases w <;> decide
  | succ n ih =>
    rw [lfsrSkip_succ]
    exact lfsrStep_lt w ih

theorem lfsrSkip_add (w : BitVec 1) (m n : Nat) (x : BitVec 15) :
    lfsrSkip w (m + n) x = lfsrSkip w m (lfsrSkip w n x) := by
  simp only [lfsrSkip_eq_iterate, Function.iterate_add_apply]

/-- The seed's successor by repeated squaring, from the binary digits of its number, the least first. -/
def lfsrPower (w : BitVec 1) : List Nat → BitVec 15
  | [] => lfsrSeed w
  | d :: ds => lfsrSkip w d (lfsrMul w (lfsrPower w ds) (lfsrPower w ds))

theorem lfsrPower_eq (w : BitVec 1) (ds : List Nat) :
    lfsrPower w ds = lfsrSkip w (Nat.ofDigits 2 ds) (lfsrSeed w) := by
  induction ds with
  | nil => rfl
  | cons d ds ih =>
    rw [lfsrPower, ih, ← lfsrSkip_eq_mul w _ (lfsrSkip_seed_lt w _), ← lfsrSkip_add, ← lfsrSkip_add,
      Nat.ofDigits_cons]
    rw [Nat.two_mul, Nat.add_assoc]

theorem lfsrSkip_seed (w : BitVec 1) (n : Nat) :
    lfsrSkip w n (lfsrSeed w) = lfsrPower w (Nat.digits 2 n) := by
  rw [lfsrPower_eq, Nat.ofDigits_digits]

/-! ### The two periods -/

/-- The period of every nonzero state of a width, from what the steps make of the seed. -/
theorem lfsr_period {w : BitVec 1} {n : Nat} (hn : lfsrSkip w n (lfsrSeed w) = lfsrSeed w)
    (hp : ∀ p, p.Prime → p ∣ n → ∃ c,
      lfsrMul w c (lfsrSkip w (n / p) (lfsrSeed w) ^^^ lfsrSeed w) = lfsrSeed w)
    {x : BitVec 15} (h0 : x ≠ 0) (hx : x.toNat < 2 ^ lfsrBits w) :
    lfsrSkip w n x = x ∧ ∀ k, 0 < k → k < n → lfsrSkip w k x ≠ x := by
  have hback : lfsrSkip w n x = x := by rw [lfsrSkip_eq_mul w n hx, hn, lfsrMul_seed w hx]
  refine ⟨hback, fun k hk hkn => ?_⟩
  rw [lfsrSkip_eq_iterate] at hback ⊢
  refine iterate_ne_of_prime_divisors hback (fun p hprime hdvd => ?_) hk hkn
  obtain ⟨c, hc⟩ := hp p hprime hdvd
  rw [← lfsrSkip_eq_iterate]
  exact lfsrSkip_ne_self hc hx h0

theorem prime_dvd_long_period {p : Nat} (hp : p.Prime) (h : p ∣ 32767) :
    p = 7 ∨ p = 31 ∨ p = 151 := by
  rw [show 32767 = 7 * (31 * 151) from rfl, hp.dvd_mul, hp.dvd_mul,
    Nat.prime_dvd_prime_iff_eq hp (by norm_num), Nat.prime_dvd_prime_iff_eq hp (by norm_num),
    Nat.prime_dvd_prime_iff_eq hp (by norm_num)] at h
  exact h

/-- Settles O28: the seed returns after 32767 steps, and after 32767/7, 32767/31 and 32767/151 it is off
by a state with an inverse. -/
theorem longLfsrPeriod : Obligations.LongLfsrPeriod := by
  intro x h0
  refine lfsr_period (w := 0) ?_ (fun p hp hdvd => ?_) h0 x.isLt
  · rw [lfsrSkip_seed]
    decide +kernel
  · rw [lfsrSkip_seed]
    obtain rfl | rfl | rfl := prime_dvd_long_period hp hdvd
    · exact ⟨0x3954, by decide +kernel⟩
    · exact ⟨0x5e40, by decide +kernel⟩
    · exact ⟨0x5493, by decide +kernel⟩

/-- Settles O29: the seed returns after 127 steps, a prime number of them, and one step is off by a state
with an inverse. -/
theorem shortLfsrPeriod : Obligations.ShortLfsrPeriod := by
  intro x h0 hx
  refine lfsr_period (w := 1) ?_ (fun p hp hdvd => ?_) h0 hx
  · decide +kernel
  · obtain rfl : p = 127 := (Nat.prime_dvd_prime_iff_eq hp (by norm_num)).mp hdvd
    exact ⟨0x3f, by decide +kernel⟩

end Sys2Proof.Machine
end

section
/-! PROOF. The Sequencer's two clocks and the frame-sequencer step that issues them (spec
42_sequencer.md R250 to R258). -/

namespace Sys2Proof.Machine

open Sys2Proof

/-! ### The length clock -/

theorem clockLength_eq (n : Noise) (q : Sequencer) :
    clockLength n q = if n.lengthEnable then q.length - 1 else q.length := by
  unfold clockLength
  cases n.lengthEnable with
  | false => rfl
  | true =>
    by_cases hpos : 0 < q.length
    · simp [hpos]
    · simp [Nat.eq_zero_of_not_pos hpos]

/-- Settles O31: a counter at 0 stays under the subtraction too. -/
theorem lengthClockCountsDown : Obligations.LengthClockCountsDown := by
  intro s
  rw [← clockLength_eq]
  rfl

/-! ### The envelope clock -/

theorem exec_evEnvelopeClock (s : State) :
    exec .evEnvelopeClock s = .next { s with seq := { s.seq with env := clockEnvelope s.seq.env } } :=
  rfl

theorem countDown_of_two_le {timer : BitVec 3} (h : 2 ≤ timer.toNat) :
    countDown timer = BitVec.ofNat 3 (timer.toNat - 1) ∧ countDown timer ≠ 0 := by
  have hcount : countDown timer = BitVec.ofNat 3 (timer.toNat - 1) := by
    rw [countDown, if_pos (by omega)]
    bv_omega
  refine ⟨hcount, fun h0 => ?_⟩
  rw [hcount] at h0
  bv_omega

theorem countDown_of_lt_two {timer : BitVec 3} (h : timer.toNat < 2) : countDown timer = 0 := by
  unfold countDown
  split <;> bv_omega

theorem clockEnvelope_of_idle {e : Envelope} (h : e.active = false ∨ e.divider = 0) :
    clockEnvelope e = e := by
  rw [clockEnvelope, if_neg]
  rintro ⟨hactive, hdivider⟩
  obtain hoff | hzero := h
  · rw [hoff] at hactive
    cases hactive
  · exact hdivider hzero

/-- R255: the volume steps by one where there is room, and the envelope stops where there is none. -/
theorem stepVolume_eq (e : Envelope) :
    stepVolume e =
      if e.direction = 1 then
        if e.currentVolume.toNat < 15 then
          { e with currentVolume := BitVec.ofNat 4 (e.currentVolume.toNat + 1) }
        else { e with active := false }
      else if 0 < e.currentVolume.toNat then
        { e with currentVolume := BitVec.ofNat 4 (e.currentVolume.toNat - 1) }
      else { e with active := false } := by
  have hup : e.currentVolume + 1 = BitVec.ofNat 4 (e.currentVolume.toNat + 1) := by bv_omega
  have hdown (h : 0 < e.currentVolume.toNat) :
      e.currentVolume - 1 = BitVec.ofNat 4 (e.currentVolume.toNat - 1) := by bv_omega
  unfold stepVolume
  rw [hup]
  split
  · rfl
  · split
    · next hpos => rw [hdown hpos]
    · rfl

/-- Settles O32: idle, the countdown, and at its end the volume step, each by its lemma. -/
theorem envelopeClockStepsVolume : Obligations.EnvelopeClockStepsVolume := by
  intro s
  refine ⟨_, exec_evEnvelopeClock s, ?_⟩
  generalize s.seq.env = o
  simp only
  by_cases hidle : o.active = false ∨ o.divider = 0
  · rw [if_pos hidle]
    exact clockEnvelope_of_idle hidle
  have hruns : o.active = true ∧ o.divider ≠ 0 := by simpa using hidle
  rw [if_neg hidle, clockEnvelope, if_pos hruns]
  by_cases htimer : 2 ≤ o.timer.toNat
  · obtain ⟨hcount, hne⟩ := countDown_of_two_le htimer
    rw [if_pos htimer, if_neg hne, hcount]
  · rw [if_neg htimer, if_pos (countDown_of_lt_two (by omega)), stepVolume_eq]
    repeat' split
    all_goals rfl

/-! ### The frame sequencer -/

theorem clocksLength_iff (step : BitVec 3) : clocksLength step = true ↔ step.toNat % 2 = 0 := by
  revert step
  decide

theorem clocksEnvelope_iff (step : BitVec 3) : clocksEnvelope step = true ↔ step.toNat = 7 := by
  revert step
  decide

/-- The Sequencer after a frame-sequencer step (R258). -/
theorem seqBody_seq (late : Nat) (s : State) :
    (seqBody late s).seq =
      { length := if clocksLength s.seq.fsStep then clockLength s.noise s.seq else s.seq.length
        env := if clocksEnvelope s.seq.fsStep then clockEnvelope s.seq.env else s.seq.env
        fsStep := s.seq.fsStep + 1 } := by
  have hlength : s.seqLength.seq =
      { s.seq with
        length := if clocksLength s.seq.fsStep then clockLength s.noise s.seq else s.seq.length } := by
    unfold State.seqLength
    split <;> rfl
  have henvelope (u : State) : u.seqEnvelope.seq =
      { u.seq with
        env := if clocksEnvelope u.seq.fsStep then clockEnvelope u.seq.env else u.seq.env } := by
    unfold State.seqEnvelope
    split <;> rfl
  rw [seqBody, State.schedule_seq, State.advanceStep, henvelope, hlength]

/-- Settles O33: the Sequencer is that of `seqBody_seq`, and the event's frame is the rest. -/
theorem frameSequencerClocks : Obligations.FrameSequencerClocks := by
  intro s hpending
  obtain ⟨e, he⟩ := earliest_eventsOf_exists hpending
  have ht : exec .evSeq s = .next (seqBody (s.firingCycle e.deadline - e.deadline) (s.beginFiring e)) :=
    fire_of_some he
  have hseq := seqBody_seq (s.firingCycle e.deadline - e.deadline) (s.beginFiring e)
  have hframe := exec_evSeq_frame ht
  refine ⟨_, ht, ?_, ?_, fun h7 => ?_, fun h7 => ?_, ?_, ?_, ?_, ?_, ?_, ?_, ?_, ?_, ?_⟩
  · rw [hseq]
    exact BitVec.toNat_add _ _
  · rw [hseq]
    simp only [clockLength_eq, clocksLength_iff, State.beginFiring_seq, State.beginFiring_noise,
      ite_and]
  · rw [exec_evEnvelopeClock, hseq]
    simp [(clocksEnvelope_iff _).mpr h7]
  · rw [hseq]
    simp [mt (clocksEnvelope_iff _).mp h7]
  all_goals rw [hframe]

end Sys2Proof.Machine
end

section
/-! PROOF. The listed host pull with no other running, and the conversion of its frames to bytes (spec
44_host_pull.md R310 to R319; 20_memory.md R101). -/

namespace Sys2Proof.Machine

open Sys2Proof

/-! ### The pull -/

/-- With the device open and no pull running, a listed pull is what its path makes of the ring buffer. -/
theorem exec_hostPull_of_idle {n : Nat} {s : State} (hdevice : s.audio.deviceOk = true)
    (hlen : n % 4 = 0) (hidle : s.pull = none) :
    exec (.hostPull n) s =
      .next
        (if 2 * (n / 4) ≤ s.rb.length then
          ({ s with rb := s.rb.drop (n / 4) } : State).writeHostBuffer (s.rb.take (n / 4))
        else if s.rb.length = 0 then s.writeHostBuffer (List.replicate (n / 4) silence)
        else
          s.writeHostBuffer
            ((List.range (n / 4)).map fun j => (s.rb[j % s.rb.length]?).getD silence)) := by
  simp [exec, execHostPull, hdevice, hlen, finishPull_of_none hidle, runPull_beginPull hidle]

/-- Settles O34: the normal path. -/
theorem pullReadsOldestFrames : Obligations.PullReadsOldestFrames := by
  intro n s hdevice hlen hidle henough
  rw [exec_hostPull_of_idle hdevice hlen hidle, if_pos henough]
  rfl

/-- Settles O35: the underrun path. -/
theorem pullRepeatsOnUnderrun : Obligations.PullRepeatsOnUnderrun := by
  intro n s hdevice hlen hidle hsome hunder
  refine ⟨(List.range (n / 4)).map fun j => (s.rb[j % s.rb.length]?).getD silence, ?_, by simp,
    fun k hk => ?_⟩
  · rw [exec_hostPull_of_idle hdevice hlen hidle, if_neg (by omega), if_neg (by omega)]
    rfl
  · have hin : k % s.rb.length < s.rb.length := Nat.mod_lt _ hsome
    simp [hk, hin]

/-- R314: a silent frame is four zero bytes. -/
theorem silence_bytes (k : Nat) :
    (List.replicate k silence).flatMap frameBytes = List.replicate (4 * k) 0 := by
  have hframe : frameBytes silence = List.replicate 4 0 := by decide
  induction k with
  | zero => rfl
  | succ k ih =>
    rw [List.replicate_succ, List.flatMap_cons, ih, hframe, List.replicate_append_replicate]
    congr 1
    omega

/-- Settles O36: with nothing queued a pull takes the silent path, or asks for nothing. -/
theorem pullOfEmptyRingIsSilent : Obligations.PullOfEmptyRingIsSilent := by
  intro n s hdevice hlen hidle hempty
  have hbytes : List.replicate n (0 : Byte) = (List.replicate (n / 4) silence).flatMap frameBytes := by
    rw [silence_bytes, Nat.mul_div_cancel' (Nat.dvd_of_mod_eq_zero hlen)]
  have hnone : s.rb.length = 0 := List.length_eq_zero_iff.mpr hempty
  rw [exec_hostPull_of_idle hdevice hlen hidle, hbytes]
  by_cases hzero : n / 4 = 0
  · rw [hzero, if_pos (Nat.zero_le _)]
    rfl
  · rw [if_neg (by omega), if_pos hnone]
    rfl

/-- Settles O37: the two tests come first. -/
theorem pullRefusals : Obligations.PullRefusals := by
  intro n s
  refine ⟨fun hdevice => ?_, fun hdevice hlen => ?_⟩
  · simp [exec, execHostPull, hdevice]
  · simp [exec, execHostPull, hdevice, hlen]

/-! ### Rounding -/

/-- Rounding a number that is not negative, halves up, is rounding away from zero. -/
theorem abs_sub_le_half_of_halves_up {x y : Rat} (hx : 0 ≤ x) (hle : y ≤ x + 1 / 2)
    (hlt : x - 1 / 2 < y) : |y - x| ≤ 1 / 2 ∧ (|y - x| = 1 / 2 → |x| < |y|) := by
  refine ⟨abs_le.mpr ⟨by linarith, by linarith⟩, fun htie => ?_⟩
  obtain hup | hdown := (abs_eq (by norm_num)).mp htie
  · rw [abs_of_nonneg hx, abs_of_nonneg (by linarith)]
    linarith
  · linarith

/-- The quotient with `d` added before the division by `2 * d` rounds halves up. -/
theorem div_add_half_bounds (n : Int) {d : Nat} (hd : 0 < d) :
    (((2 * n + d) / (2 * d) : Int) : Rat) ≤ (n : Rat) / d + 1 / 2 ∧
      (n : Rat) / d - 1 / 2 < (((2 * n + d) / (2 * d) : Int) : Rat) := by
  have hd' : (0 : Rat) < d := by exact_mod_cast hd
  have hle := Int.mul_ediv_self_le (x := 2 * n + d) (k := 2 * d) (by omega)
  have hlt := Int.lt_mul_ediv_self_add (x := 2 * n + d) (k := 2 * d) (by omega)
  generalize (2 * n + d) / (2 * d) = y at hle hlt ⊢
  have hle : (2 * d * y : Rat) ≤ 2 * n + d := by exact_mod_cast hle
  have hlt : (2 * n + d : Rat) < 2 * d * y + 2 * d := by exact_mod_cast hlt
  constructor
  · rw [← sub_le_iff_le_add, le_div_iff₀ hd']
    linarith
  · rw [sub_lt_iff_lt_add, div_lt_iff₀ hd']
    linarith

/-- R316: the nearest integer, halves away from zero. -/
theorem roundHalfAway_nearest (n : Int) {d : Nat} (hd : 0 < d) :
    |(roundHalfAway n d : Rat) - (n : Rat) / d| ≤ 1 / 2 ∧
      (|(roundHalfAway n d : Rat) - (n : Rat) / d| = 1 / 2 →
        |(n : Rat) / d| < |(roundHalfAway n d : Rat)|) := by
  have hd' : (0 : Rat) ≤ d := by exact_mod_cast hd.le
  unfold roundHalfAway
  split
  · next hn =>
    obtain ⟨hle, hlt⟩ := div_add_half_bounds n hd
    exact abs_sub_le_half_of_halves_up (div_nonneg (by exact_mod_cast hn) hd') hle hlt
  · next hn =>
    obtain ⟨hle, hlt⟩ := div_add_half_bounds (-n) hd
    have hpos : (0 : Rat) ≤ ((-n : Int) : Rat) / d :=
      div_nonneg (by exact_mod_cast (by omega : 0 ≤ -n)) hd'
    have hround := abs_sub_le_half_of_halves_up hpos hle hlt
    have hneg : ((-n : Int) : Rat) / d = -((n : Rat) / d) := by
      push_cast
      ring
    rw [hneg] at hround
    rw [Int.cast_neg, ← abs_neg (_ - _), neg_sub', neg_neg, abs_neg (Int.cast _), ← abs_neg (_ / _)]
    exact hround

/-- Settles O38: `Conv` rounds the fraction `v.num * 32767 / v.den`. -/
theorem conversionRoundsAndSaturates : Obligations.ConversionRoundsAndSaturates := by
  intro v
  have hv : v * 32767 = ((v.num * fullScale : Int) : Rat) / v.den := by
    conv_lhs => rw [← Rat.num_div_den v]
    rw [fullScale]
    push_cast
    ring
  obtain ⟨hnear, htie⟩ := roundHalfAway_nearest (v.num * fullScale) v.den_pos
  rw [← hv] at hnear htie
  exact ⟨_, hnear, htie, rfl⟩

/-! ### The bytes of a frame -/

theorem sampleBytes_eq (x : Int) :
    ∃ a b : Byte, sampleBytes x = [a, b] ∧
      ((a.toNat + 256 * b.toNat : Nat) : Int) = x % 65536 := by
  refine ⟨_, _, rfl, ?_⟩
  have hword : ((BitVec.ofInt 16 x).toNat : Int) = x % 65536 := by
    rw [BitVec.toNat_ofInt]
    omega
  have hlt := (BitVec.ofInt 16 x).isLt
  rw [BitVec.extractLsb'_toNat, BitVec.extractLsb'_toNat, Nat.shiftRight_zero,
    Nat.shiftRight_eq_div_pow]
  omega

/-- Settles O39: left, then right, each by `sampleBytes_eq`. -/
theorem frameBytesLittleEndian : Obligations.FrameBytesLittleEndian := by
  intro f
  obtain ⟨a, b, hleft, hab⟩ := sampleBytes_eq (conv f.left)
  obtain ⟨c, d, hright, hcd⟩ := sampleBytes_eq (conv f.right)
  exact ⟨a, b, c, d, by rw [frameBytes, hleft, hright]; rfl, hab, hcd⟩

end Sys2Proof.Machine
end

section
/-! PROOF. The reset, and what ends before it and before a listed pull (spec 70_reset_and_hazards.md
R360 to R364; 44_host_pull.md R319; 60_exceptions.md R331, R356). -/

namespace Sys2Proof.Machine

open Sys2Proof

/-! ### A reset within the ring buffer's contract -/

theorem resetBlock_rb (s : State) : s.resetBlock.rb = s.rb := by rw [resetBlock_frame]

theorem resetBlock_pull (s : State) : s.resetBlock.pull = s.pull := by rw [resetBlock_frame]

theorem exec_reset_of_contract {s : State} (h : s.pullInContract) :
    ∃ t, exec .reset s = .next t := by
  have hblock : s.resetBlock.pullInContract := by
    rw [State.pullInContract, resetBlock_pull, resetBlock_rb]
    exact h
  obtain ⟨u, hu⟩ := finishPull_of_contract hblock
  exact ⟨_, exec_reset_of_finishPull hu⟩

/-- Settles O40: each part of the state after a reset is a lemma of its own. -/
theorem resetLeavesResetValues : Obligations.ResetLeavesResetValues := by
  intro s hc
  obtain ⟨t, ht⟩ := exec_reset_of_contract hc
  have hseq := exec_reset_seq ht
  have hsched := exec_reset_sched ht
  have hrs := exec_reset_rs ht
  have hframe := exec_reset_frame ht
  obtain ⟨hrb, hpull⟩ := exec_reset_ring ht
  refine ⟨t, ht, exec_reset_noise ht, ?_, ?_, fun hfs => ?_, exec_reset_audio ht, ?_, ?_, hrb, ?_, ?_,
    hpull, ?_, ?_, ?_, ?_⟩
  · rw [hseq]; rfl
  · rw [hseq]; rfl
  · rw [hseq]; exact if_pos hfs
  · rw [hsched]
  · rw [hsched]; rfl
  · rw [hrs]; rfl
  · rw [hrs]; rfl
  all_goals rw [hframe]

/-! ### The status -/

/-- The device flag after a reset is the result of `Open`, where one is fixed. -/
theorem exec_reset_deviceOk {s t : State} (h : exec .reset s = .next t) {b : Bool}
    (hb : s.params.openResult = some b) : t.audio.deviceOk = b := by
  obtain ⟨u, hu, rfl⟩ := exec_reset_next h
  have hparams : u.params = s.params := by rw [(finishPull_hostOnly hu).params, resetBlock_frame]
  show u.openSucceeds = b
  rw [State.openSucceeds, hparams, hb]

/-- Settles O41: the running pull's output comes first, where one is running, and then the status. -/
theorem resetReportsDeviceStatus : Obligations.ResetReportsDeviceStatus := by
  intro s t h
  refine ⟨?_, fun b => exec_reset_deviceOk h⟩
  obtain ⟨u, hu, rfl⟩ := exec_reset_next h
  have hnow : u.sched.now = s.sched.now := by
    rw [(finishPull_hostOnly hu).sched, resetBlock_sched]
  have hout : s.resetBlock.out = s.out := by rw [resetBlock_frame]
  obtain ⟨o, ho⟩ := (finishPull_grows hu).1
  rw [hout] at ho
  refine ⟨o, ?_, fun hidle => ?_⟩
  · rw [ho, ← hnow]
    rfl
  · rw [finishPull_of_none ((resetBlock_pull s).trans hidle)] at hu
    cases hu
    rw [hout] at ho
    exact List.append_right_eq_self.mp ho

/-! ### A second reset -/

theorem resetEvents_shift (schedule : SeqSchedule) (now nextReg k : Nat) :
    resetEvents schedule now (nextReg + k) =
      (resetEvents schedule now nextReg).map fun e => { e with reg := e.reg + k } := by
  unfold resetEvents
  split <;> simp [Nat.add_right_comm]

/-- Settles O42: the second reset computes every part from what the first one left. -/
theorem secondResetChangesOnlyNumbers : Obligations.SecondResetChangesOnlyNumbers := by
  intro s t u ht hu
  obtain ⟨htparams, -⟩ := exec_params_program ht
  have htsched := exec_reset_sched ht
  have husched := exec_reset_sched hu
  obtain ⟨htrb, htpull⟩ := exec_reset_ring ht
  obtain ⟨hurb, hupull⟩ := exec_reset_ring hu
  have hframe := exec_reset_frame hu
  have haudio : { t.audio with deviceOk := u.audio.deviceOk } =
      { State.reset.audio with deviceOk := u.audio.deviceOk } := by rw [exec_reset_audio ht]
  refine ⟨(exec_reset_noise hu).trans (exec_reset_noise ht).symm, ?_,
    (exec_reset_audio hu).trans haudio.symm, hurb.trans htrb.symm, ?_, hupull.trans htpull.symm, ?_, ?_,
    ?_, ?_, ?_, ?_, ?_⟩
  · rw [exec_reset_seq hu, exec_reset_seq ht, htparams]
    split <;> rfl
  · rw [exec_reset_rs hu, htparams, exec_reset_rs ht, atReset_atReset]
  · rw [hframe]
  · rw [hframe]
  · rw [hframe]
  · rw [hframe]
  · rw [husched]
  · rw [husched, htsched, htparams]
    simp only [resetEvents_shift, List.length_map]
  · rw [husched, htsched, htparams]
    exact resetEvents_shift _ _ _ _

/-- Settles O43: from cycle 0 and number 0 each part of a reset's result is that of `State.reset`. -/
theorem initialStateIsAReset : Obligations.InitialStateIsAReset := by
  intro s t hnow hreg hparams ht
  obtain ⟨hrb, hpull⟩ := exec_reset_ring ht
  have hrs := exec_reset_rs ht
  rw [hparams] at hrs
  refine ⟨exec_reset_noise ht, ?_, ?_, hrb, hpull, ?_, ?_, fun hfirst => ?_, ?_⟩
  · rw [exec_reset_seq ht, hparams]
    rfl
  · rw [exec_reset_sched ht, hparams, hnow, hreg]
    rfl
  · rw [hrs]; rfl
  · rw [hrs]; rfl
  · rw [hrs, hfirst]; rfl
  · rw [exec_reset_audio ht]
    rfl

/-! ### What ends before -/

/-- The reset of the block looks at nothing of HOST's. -/
theorem resetBlock_host (s : State) (rb : List Frame) (pull : Option Pull) (out : List (Nat × Output)) :
    ({ s with rb := rb, pull := pull, out := out } : State).resetBlock =
      { s.resetBlock with rb := rb, pull := pull, out := out } := by
  unfold State.resetBlock State.resetFrameSequencer
  simp only [State.resetNoise_params, State.resetAudio_params, State.cancelEvents_params]
  cases s.params.seqSchedule <;> rfl

/-- A running pull within the contract, run to its end (R310). -/
def State.afterPull (s : State) (p : Pull) : State :=
  ({ s with rb := p.leaves s.rb, pull := none } : State).writeHostBuffer (p.output s.rb)

theorem finishPull_eq_afterPull {s : State} {p : Pull} (hp : s.pull = some p)
    (h : p.inContract s.rb) : s.finishPull = .ok (s.afterPull p) :=
  finishPull_of_some hp h

theorem exec_hostPull_afterPull {s : State} {p : Pull} (hp : s.pull = some p)
    (h : p.inContract s.rb) (n : Nat) : exec (.hostPull n) s = exec (.hostPull n) (s.afterPull p) := by
  have hidle : (s.afterPull p).pull = none := rfl
  simp only [exec, execHostPull, finishPull_eq_afterPull hp h, finishPull_of_none hidle]
  rfl

theorem exec_reset_afterPull {s : State} {p : Pull} (hp : s.pull = some p) (h : p.inContract s.rb) :
    exec .reset s = exec .reset (s.afterPull p) := by
  have hp' : s.resetBlock.pull = some p := (resetBlock_pull s).trans hp
  have h' : p.inContract s.resetBlock.rb := by rw [resetBlock_rb]; exact h
  have hidle : (s.afterPull p).resetBlock.pull = none := by
    rw [resetBlock_pull]
    rfl
  have hblock : (s.afterPull p).resetBlock = s.resetBlock.afterPull p := by
    have hnow : s.resetBlock.sched.now = s.sched.now := by rw [resetBlock_sched]
    have hout : s.resetBlock.out = s.out := by rw [resetBlock_frame]
    refine (resetBlock_host s _ _ _).trans ?_
    simp only [State.afterPull, State.writeHostBuffer, State.emit, resetBlock_rb, hnow, hout]
  rw [exec_reset_of_finishPull (finishPull_eq_afterPull hp' h'),
    exec_reset_of_finishPull (finishPull_of_none hidle), hblock]

/-- Settles O58: the state written out is `State.afterPull`. -/
theorem runningPullEndsFirst : Obligations.RunningPullEndsFirst := fun _ _ hp h =>
  ⟨exec_reset_afterPull hp h, exec_hostPull_afterPull hp h⟩

end Sys2Proof.Machine
end

section
/-! PROOF. The firing of an event: it re-arms at its deadline plus its period, and how late it fires
reaches nothing but the clock (spec 60_exceptions.md R340 to R343; 70_reset_and_hazards.md R391). -/

namespace Sys2Proof.Machine

open Sys2Proof

/-! ### The re-arm -/

/-- Within the ring buffer's contract every pending event can fire. -/
theorem exec_event_exists {k : EventKind} {s : State} {e : Event} (hc : s.pullInContract)
    (he : earliest (s.eventsOf k) = some e) : ∃ t, exec k.instr s = .next t := by
  cases k with
  | generate => exact ⟨_, exec_evGenerate he⟩
  | tick =>
    obtain ⟨u, -, ht⟩ := exec_evTick_of_contract hc he
    exact ⟨_, ht⟩
  | seq => exact ⟨_, fire_of_some he⟩

/-- Settles O46: the scheduler is that of `exec_event_sched`, whose period the statement writes out. -/
theorem eventsRearmAtDeadlinePlusPeriod : Obligations.EventsRearmAtDeadlinePlusPeriod := by
  intro s k e hc he
  obtain ⟨t, ht⟩ := exec_event_exists hc he
  obtain ⟨e', he', hsched⟩ := exec_event_sched ht
  obtain rfl : e = e' := Option.some.inj (he.symm.trans he')
  obtain ⟨hnow, hdeadline⟩ := firingCycle_ge s e.deadline
  refine ⟨t, ht, ?_, ?_, ?_, ?_⟩
  · rw [hsched]
  · rw [hsched]; exact hnow
  · rw [hsched]; exact hdeadline
  · rw [hsched]
    cases k with
    | tick => simp only [State.eventPeriod, mixerInterval_eq]
    | seq => rfl
    | generate =>
      simp only [State.eventPeriod, lengthExpired_eq_true_iff, nextTiming, skipAndPeriod_period,
        baseInterval_eq, mixerInterval_eq]

/-! ### States that differ only in the clock -/

/-- `s` and `t` agree on everything but `E.now`, the cycles of the outputs and how late events fire, which
in `s` is `l`. -/
structure ClockAlike (l : Lateness) (s t : State) : Prop where
  noise : s.noise = t.noise
  seq : s.seq = t.seq
  audio : s.audio = t.audio
  pending : s.sched.pending = t.sched.pending
  nextReg : s.sched.nextReg = t.sched.nextReg
  rb : s.rb = t.rb
  rs : s.rs = t.rs
  pull : s.pull = t.pull
  fifos : s.fifos = t.fifos
  program : s.program = t.program
  out : s.out.map (fun p => ((0 : Nat), p.2)) = t.out.map (fun p => (0, p.2))
  draws : s.draws = t.draws
  turn : s.turn = t.turn
  params : s.params = { t.params with lateness := l }

theorem offClock_eq_iff (l : Lateness) (s t : State) :
    s.offClock = ({ t with params := { t.params with lateness := l } } : State).offClock ↔
      ClockAlike l s t := by
  constructor
  · intro h
    simp only [State.offClock, State.mk.injEq, Scheduler.mk.injEq] at h
    obtain ⟨hnoise, hseq, haudio, ⟨-, hpending, hnextReg⟩, hrb, hrs, hpull, hfifos, hprogram, hout,
      hdraws, hturn, hparams⟩ := h
    exact ⟨hnoise, hseq, haudio, hpending, hnextReg, hrb, hrs, hpull, hfifos, hprogram, hout, hdraws,
      hturn, hparams⟩
  · rintro ⟨hnoise, hseq, haudio, hpending, hnextReg, hrb, hrs, hpull, hfifos, hprogram, hout, hdraws,
      hturn, hparams⟩
    simp only [State.offClock, hnoise, hseq, haudio, hpending, hnextReg, hrb, hrs, hpull, hfifos,
      hprogram, hout, hdraws, hturn, hparams]

namespace ClockAlike

variable {l : Lateness} {s t : State}

theorem hostAlike (h : ClockAlike l s t) :
    HostAlike (fun p : Nat × Output => ((0 : Nat), p.2)) s t :=
  ⟨h.rb.symm, h.pull.symm, h.draws.symm, by rw [h.audio], by rw [h.params], by rw [h.params],
    fun _ => rfl, h.out.symm⟩

theorem withNoise (h : ClockAlike l s t) (n : Noise) :
    ClockAlike l { s with noise := n } { t with noise := n } :=
  ⟨rfl, h.seq, h.audio, h.pending, h.nextReg, h.rb, h.rs, h.pull, h.fifos, h.program, h.out, h.draws,
    h.turn, h.params⟩

theorem withSeq (h : ClockAlike l s t) (q : Sequencer) :
    ClockAlike l { s with seq := q } { t with seq := q } :=
  ⟨h.noise, rfl, h.audio, h.pending, h.nextReg, h.rb, h.rs, h.pull, h.fifos, h.program, h.out, h.draws,
    h.turn, h.params⟩

theorem withRates (h : ClockAlike l s t) (a : Audio) (rs : Resampler) :
    ClockAlike l { s with audio := a, rs := rs } { t with audio := a, rs := rs } :=
  ⟨h.noise, h.seq, rfl, h.pending, h.nextReg, h.rb, rfl, h.pull, h.fifos, h.program, h.out, h.draws,
    h.turn, h.params⟩

theorem drawn (h : ClockAlike l s t) : ClockAlike l s.drawn t.drawn :=
  ⟨h.noise, h.seq, h.audio, h.pending, h.nextReg, h.rb, h.rs, h.pull, h.fifos, h.program, h.out,
    congrArg (· + 1) h.draws, h.turn, h.params⟩

theorem emit (h : ClockAlike l s t) (o : Output) : ClockAlike l (s.emit o) (t.emit o) :=
  ⟨h.noise, h.seq, h.audio, h.pending, h.nextReg, h.rb, h.rs, h.pull, h.fifos, h.program,
    by simp only [State.emit_out, List.map_append, h.out, List.map_cons, List.map_nil], h.draws,
    h.turn, h.params⟩

/-- Two registrations for the same cycle. -/
theorem schedule (h : ClockAlike l s t) (k : EventKind) {d d' : Int}
    (hd : (s.sched.now : Int) + d = t.sched.now + d') :
    ClockAlike l (s.schedule k d) (t.schedule k d') :=
  ⟨h.noise, h.seq, h.audio, by simp only [State.schedule_pending, hd, h.pending, h.nextReg],
    congrArg (· + 1) h.nextReg, h.rb, h.rs, h.pull, h.fifos, h.program, h.out, h.draws, h.turn,
    h.params⟩

theorem beginFiring (h : ClockAlike l s t) (e : Event) :
    ClockAlike l (s.beginFiring e) (t.beginFiring e) :=
  ⟨h.noise, h.seq, h.audio, congrArg (List.erase · e) h.pending, h.nextReg, h.rb, h.rs, h.pull,
    h.fifos, h.program,
    by simp only [State.beginFiring_out, List.map_append, h.out, List.map_cons, List.map_nil],
    congrArg (· + 1) h.draws, h.turn, h.params⟩

/-- What HOST makes of two such states are two such states. -/
theorem ofHost {u v : State} (h : ClockAlike l s t) (hu : HostOnly s u) (hv : HostOnly t v)
    (huv : HostAlike (fun p : Nat × Output => ((0 : Nat), p.2)) u v) : ClockAlike l u v where
  noise := by rw [hu.noise, hv.noise, h.noise]
  seq := by rw [hu.seq, hv.seq, h.seq]
  audio := by rw [hu.audio, hv.audio, h.audio]
  pending := by rw [hu.sched, hv.sched, h.pending]
  nextReg := by rw [hu.sched, hv.sched, h.nextReg]
  rb := huv.rb.symm
  rs := by rw [hu.rs, hv.rs, h.rs]
  pull := huv.pull.symm
  fifos := by rw [hu.fifos, hv.fifos, h.fifos]
  program := by rw [hu.program, hv.program, h.program]
  out := huv.out.symm
  draws := huv.draws.symm
  turn := by rw [hu.turn, hv.turn, h.turn]
  params := by rw [hu.params, hv.params, h.params]

/-! ### The rules of the events -/

theorem generateBody {late late' : Nat} (h : ClockAlike l s t)
    (hnow : (s.sched.now : Int) - late = t.sched.now - late') :
    ClockAlike l (Machine.generateBody late s) (Machine.generateBody late' t) := by
  have hgate : lengthExpired t.noise t.seq = lengthExpired s.noise s.seq := by rw [h.noise, h.seq]
  have hsample (raw : Int) : scaledSample raw t = scaledSample raw s := by
    rw [scaledSample, scaledSample, h.noise, h.seq]
  have htiming : nextTiming t = nextTiming s := by rw [nextTiming, nextTiming, h.noise, h.audio]
  unfold Machine.generateBody
  rw [hgate]
  split
  · unfold muteBody
    rw [← h.noise]
    exact (h.withNoise _).schedule .generate (by simp only; omega)
  · simp only [synthesizeBody, hsample, htiming, ← h.noise]
    exact (h.withNoise _).schedule .generate (by simp only; omega)

theorem lengthClock (h : ClockAlike l s t) : ClockAlike l s.lengthClock t.lengthClock := by
  have hlength : clockLength t.noise t.seq = clockLength s.noise s.seq := by rw [h.noise, h.seq]
  unfold State.lengthClock
  rw [hlength, ← h.seq]
  exact h.withSeq _

theorem envelopeClock (h : ClockAlike l s t) : ClockAlike l s.envelopeClock t.envelopeClock := by
  unfold State.envelopeClock
  rw [← h.seq]
  exact h.withSeq _

theorem seqLength (h : ClockAlike l s t) : ClockAlike l s.seqLength t.seqLength := by
  unfold State.seqLength
  rw [← h.seq]
  split
  · exact h.lengthClock.emit _
  · exact h

theorem seqEnvelope (h : ClockAlike l s t) : ClockAlike l s.seqEnvelope t.seqEnvelope := by
  unfold State.seqEnvelope
  rw [← h.seq]
  split
  · exact h.envelopeClock.emit _
  · exact h

theorem advanceStep (h : ClockAlike l s t) : ClockAlike l s.advanceStep t.advanceStep := by
  unfold State.advanceStep
  rw [← h.seq]
  exact h.withSeq _

theorem seqBody {late late' : Nat} (h : ClockAlike l s t)
    (hnow : (s.sched.now : Int) - late = t.sched.now - late') :
    ClockAlike l (Machine.seqBody late s) (Machine.seqBody late' t) :=
  h.seqLength.seqEnvelope.advanceStep.schedule .seq (by
    simp only [State.advanceStep_sched, State.seqEnvelope_sched, State.seqLength_sched]
    omega)

theorem retune (h : ClockAlike l s t) : ClockAlike l s.retune t.retune := by
  have hrate : t.params.hostRate = s.params.hostRate := by rw [h.params]
  unfold State.retune
  rw [hrate, ← h.audio, ← h.rs]
  split
  · exact h.withRates _ _
  · exact h

theorem mix (h : ClockAlike l s t) : s.mix = t.mix := by
  have hsquare (k : FifoId) : s.squareSample k = t.squareSample k := by
    rw [State.squareSample, State.squareSample, h.params, h.draws]
  rw [State.mix, State.mix, State.psg, State.psg, hsquare, hsquare, h.noise, h.audio]

theorem pushFrame {u : State} {f : Frame} (h : ClockAlike l s t) (hu : s.pushFrame f = .ok u) :
    ∃ v, t.pushFrame f = .ok v ∧ ClockAlike l u v := by
  have hkernel : t.params.resampler = s.params.resampler := by rw [h.params]
  have hrs : ClockAlike l { s with rs := (s.rs.push s.params.resampler f).1 }
      { t with rs := (s.rs.push s.params.resampler f).1 } := by
    have := h.withRates s.audio (s.rs.push s.params.resampler f).1
    rwa [show ({ t with audio := s.audio, rs := (s.rs.push s.params.resampler f).1 } : State) =
      { t with rs := (s.rs.push s.params.resampler f).1 } by rw [h.audio]] at this
  rw [pushFrame_eq] at hu ⊢
  rw [← h.rs, hkernel]
  obtain ⟨r, hs, -⟩ | ⟨u', v, hs, ht, huv⟩ :=
    hrs.hostAlike.produce (s.rs.push s.params.resampler f).2
  · rw [hu] at hs
    cases hs
  · rw [hu] at hs
    cases hs
    exact ⟨v, ht, hrs.ofHost (produce_hostOnly _ hu) (produce_hostOnly _ ht) huv⟩

theorem tickBody {late late' : Nat} {u : State} (h : ClockAlike l s t)
    (hnow : (s.sched.now : Int) - late = t.sched.now - late')
    (hu : Machine.tickBody late s = .ok u) :
    ∃ v, Machine.tickBody late' t = .ok v ∧ ClockAlike l u v := by
  obtain ⟨u, hpush, rfl⟩ := tickBody_ok hu
  obtain ⟨v, hv, huv⟩ := h.retune.pushFrame hpush
  have hu := (pushFrame_hostOnly hpush).sched
  have hv' := (pushFrame_hostOnly hv).sched
  refine ⟨_, by rw [Machine.tickBody, ← h.mix, hv], ?_⟩
  refine huv.drawn.schedule .tick ?_
  rw [State.drawn_sched, State.drawn_sched, hu, hv', h.audio]
  simp only [State.retune_sched]
  omega

end ClockAlike

/-! ### The firing -/

/-- A rule that reads the clock only through its deadline fires alike from two such states. -/
theorem ClockAlike.fireOrRefuse {l : Lateness} {s t u : State} {k : EventKind}
    {body : Nat → State → Except Refusal State}
    (hbody : ∀ {late late' : Nat} {s t u : State}, ClockAlike l s t →
      (s.sched.now : Int) - late = t.sched.now - late' → body late s = .ok u →
      ∃ v, body late' t = .ok v ∧ ClockAlike l u v)
    (h : ClockAlike l s t) (hu : fireOrRefuse k body s = .next u) :
    ∃ v, fireOrRefuse k body t = .next v ∧ ClockAlike l u v := by
  obtain ⟨e, he, hu⟩ := fireOrRefuse_next hu
  have hevents : t.eventsOf k = s.eventsOf k := by rw [State.eventsOf, State.eventsOf, h.pending]
  have hs := (firingCycle_ge s e.deadline).2
  have ht := (firingCycle_ge t e.deadline).2
  obtain ⟨v, hv, huv⟩ := hbody (late' := t.firingCycle e.deadline - e.deadline) (h.beginFiring e)
    (by rw [State.beginFiring_now, State.beginFiring_now]; omega) hu
  exact ⟨v, by rw [fireOrRefuse_of_some (hevents ▸ he), hv, answer_ok], huv⟩

theorem ClockAlike.fire {l : Lateness} {s t u : State} {k : EventKind} {body : Nat → State → State}
    (hbody : ∀ {late late' : Nat} {s t : State}, ClockAlike l s t →
      (s.sched.now : Int) - late = t.sched.now - late' → ClockAlike l (body late s) (body late' t))
    (h : ClockAlike l s t) (hu : fire k body s = .next u) :
    ∃ v, fire k body t = .next v ∧ ClockAlike l u v := by
  refine h.fireOrRefuse (fun h' hnow heq => ?_) hu
  cases heq
  exact ⟨_, rfl, hbody h' hnow⟩

theorem ClockAlike.exec_event {l : Lateness} {s t u : State} {k : EventKind} (h : ClockAlike l s t)
    (hu : exec k.instr s = .next u) : ∃ v, exec k.instr t = .next v ∧ ClockAlike l u v := by
  cases k with
  | generate => exact h.fire ClockAlike.generateBody hu
  | tick => exact h.fireOrRefuse ClockAlike.tickBody hu
  | seq => exact h.fire ClockAlike.seqBody hu

/-- Settles O47: `ClockAlike` is the relation the statement writes out, and events keep it. -/
theorem latenessReachesOnlyTheClock : Obligations.LatenessReachesOnlyTheClock := by
  intro k s₁ s₂ t₁ l h ht₁
  obtain ⟨t₂, ht₂, halike⟩ := ((offClock_eq_iff l s₁ s₂).mp h).exec_event ht₁
  exact ⟨t₂, ht₂, (offClock_eq_iff l t₁ t₂).mpr halike⟩

end Sys2Proof.Machine
end

section
/-! PROOF. HOST's steps and the ring buffer's contract: what a step of HOST is, that the only refusal of
HOST's operations is the contract's, and that within the contract there is none (spec 20_memory.md R93
to R95; 60_exceptions.md R334, R351, R352). -/

namespace Sys2Proof.Machine

open Sys2Proof

/-! ### The one refusal of HOST's operations -/

theorem rbPeek_of_le {rb : List Frame} {i : Nat} (h : rb.length ≤ i) :
    rbPeek rb i = .error .ringContract := by
  simp [rbPeek, h]

theorem take_error {p : Pull} {rb : List Frame} {r : Refusal} (h : p.take rb = .error r) :
    r = .ringContract := by
  unfold Pull.take at h
  split at h
  · cases rb <;> cases h
    rfl
  · unfold rbPeek at h
    cases hget : rb[p.index]? <;> rw [hget] at h <;> cases h
    rfl

theorem pullStep_error {s : State} {p : Pull} {r : Refusal} (h : s.pullStep p = .error r) :
    r = .ringContract := by
  unfold State.pullStep at h
  split at h
  · next htake =>
    cases h
    exact take_error htake
  · split at h <;> cases h

theorem hostStep_error {s : State} {r : Refusal} (h : s.hostStep = .error r) : r = .ringContract := by
  unfold State.hostStep at h
  split at h
  · exact pullStep_error h
  · cases h

theorem hostRun_error (k : Nat) {s : State} {r : Refusal} (h : hostRun k s = .error r) :
    r = .ringContract := by
  induction k generalizing s with
  | zero => cases h
  | succ k ih =>
    simp only [hostRun] at h
    split at h
    · split at h
      · next hstep =>
        cases h
        exact hostStep_error hstep
      · exact ih h
    · cases h

theorem hostInterlude_error {s : State} {r : Refusal} (h : s.hostInterlude = .error r) :
    r = .ringContract := by
  unfold State.hostInterlude at h
  split at h
  · exact hostRun_error _ h
  · cases h

theorem produce_error (fs : List Frame) {s : State} {r : Refusal} (h : produce fs s = .error r) :
    r = .ringContract := by
  induction fs generalizing s with
  | nil => cases h
  | cons f fs ih =>
    simp only [produce] at h
    split at h
    · next hhost =>
      cases h
      exact hostInterlude_error hhost
    · exact ih h

theorem tickBody_error {late : Nat} {s : State} {r : Refusal} (h : tickBody late s = .error r) :
    r = .ringContract := by
  unfold tickBody at h
  split at h
  · next hpush =>
    cases h
    rw [pushFrame_eq] at hpush
    exact produce_error _ hpush
  · cases h

/-- A pending Tick completes, or HOST breaks the contract in it. -/
theorem exec_evTick_of_pending {s : State} (h : ∃ e ∈ s.sched.pending, e.kind = .tick) :
    (∃ t, exec .evTick s = .next t) ∨ exec .evTick s = .refused .ringContract := by
  obtain ⟨e, he⟩ := earliest_eventsOf_exists h
  have hexec : exec .evTick s =
      answer (tickBody (s.firingCycle e.deadline - e.deadline) (s.beginFiring e)) :=
    fireOrRefuse_of_some he
  cases hbody : tickBody (s.firingCycle e.deadline - e.deadline) (s.beginFiring e) with
  | ok t => exact .inl ⟨t, by rw [hexec, hbody, answer_ok]⟩
  | error r => exact .inr (by rw [hexec, hbody, answer_error, tickBody_error hbody])

/-! ### Calls outside the contract -/

/-- A pull that must read more frames than are queued is refused before its end. -/
theorem runPull_of_short (k : Nat) {s : State} {p : Pull} (hp : s.pull = some p)
    (hpath : p.path = .reading) (hk : p.more = k) (hshort : s.rb.length ≤ k) :
    runPull (k + 1) s = .error .ringContract := by
  induction k generalizing s p with
  | zero =>
    have hrb : s.rb = [] := List.length_eq_zero_iff.mp (Nat.le_zero.mp hshort)
    simp [runPull, hp, State.pullStep, Pull.take, hpath, hrb, rbRead]
  | succ k ih =>
    cases hrb : s.rb with
    | nil => simp [runPull, hp, State.pullStep, Pull.take, hpath, hrb, rbRead]
    | cons f rest =>
      rw [hrb] at hshort
      have hnext := ih (s := { s with rb := rest, pull := some (p.next k f) }) rfl hpath rfl
        (Nat.le_of_succ_le_succ hshort)
      rw [runPull]
      simp only [hp, State.pullStep, Pull.take, hpath, hrb, rbRead, hk]
      exact hnext

theorem finishPull_of_short {s : State} {p : Pull} (hp : s.pull = some p)
    (hpath : p.path = .reading) (hshort : s.rb.length ≤ p.more) :
    s.finishPull = .error .ringContract := by
  simp [State.finishPull, hp, runPull_of_short p.more hp hpath rfl hshort]

theorem exec_reset_of_short {s : State} {p : Pull} (hp : s.pull = some p)
    (hpath : p.path = .reading) (hshort : s.rb.length ≤ p.more) :
    exec .reset s = .refused .ringContract := by
  have hblock := finishPull_of_short (s := s.resetBlock) ((resetBlock_pull s).trans hp) hpath
    (by rw [resetBlock_rb]; exact hshort)
  rw [State.resetBlock] at hblock
  simp only [exec, execReset, State.resetDevice, hblock]

theorem step_of_bad_call {s : State} {p : Pull} (hhost : s.hostMoves = true) (hp : s.pull = some p)
    (hbad : (p.path = .reading ∧ s.rb = []) ∨ (p.path = .peeking ∧ s.rb.length ≤ p.index)) :
    step s = .refused .ringContract := by
  have htake : p.take s.rb = .error .ringContract := by
    obtain ⟨hpath, hrb⟩ | ⟨hpath, hle⟩ := hbad
    · rw [Pull.take, hpath, hrb]
      rfl
    · rw [Pull.take, hpath, rbPeek_of_le hle]
  rw [step_of_hostMoves hhost]
  simp [State.hostStep, hp, State.pullStep, htake]

/-! ### Within the contract -/

theorem runPull_of_contract (k : Nat) {s : State} (h : s.pullInContract) :
    ∃ t, runPull k s = .ok t := by
  induction k generalizing s with
  | zero => exact ⟨s, rfl⟩
  | succ k ih =>
    rw [runPull]
    cases hp : s.pull with
    | none => exact ⟨s, rfl⟩
    | some p =>
      obtain ⟨t, ht, hc⟩ := pullStep_of_contract (h p hp)
      simp only [ht]
      exact ih hc

theorem exec_hostPull_ne_ringContract {s : State} (h : s.pullInContract) (n : Nat) :
    exec (.hostPull n) s ≠ .refused .ringContract := by
  obtain ⟨u, hu⟩ := finishPull_of_contract h
  have hended : u.pullInContract := by
    intro p hp
    rw [finishPull_pull hu] at hp
    cases hp
  obtain ⟨t, ht⟩ := runPull_of_contract (n / 4) (beginPull_contract hended (n / 4))
  simp only [exec, execHostPull, hu, ht, answer_ok]
  split
  · simp
  · split <;> simp

theorem exec_event_ne_ringContract {s : State} (h : s.pullInContract) (k : EventKind) :
    exec k.instr s ≠ .refused .ringContract := by
  cases he : earliest (s.eventsOf k) with
  | none =>
    have hnone : exec k.instr s = .refused .eventNotPending := by
      cases k <;> simp [EventKind.instr, exec, execEvGenerate, execEvTick, execEvSeq, fire,
        fireOrRefuse, he]
    rw [hnone]
    simp
  | some e =>
    obtain ⟨t, ht⟩ := exec_event_exists h he
    rw [ht]
    simp

theorem exec_ne_ringContract {s : State} (h : s.pullInContract) (i : Instr) :
    exec i s ≠ .refused .ringContract := by
  by_cases hwindow : windowTransaction i = true
  · obtain ⟨t, ht, -⟩ := windowTransactionsTouchOnlyTheChannel i s hwindow
    rw [ht]
    simp
  cases i with
  | hostPull n => exact exec_hostPull_ne_ringContract h n
  | reset =>
    obtain ⟨t, ht⟩ := exec_reset_of_contract h
    rw [ht]
    simp
  | evGenerate => exact exec_event_ne_ringContract h .generate
  | evTick => exact exec_event_ne_ringContract h .tick
  | evSeq => exact exec_event_ne_ringContract h .seq
  | biasWr l r => intro hexec; cases hexec
  | latchFifo i k => intro hexec; cases hexec
  | evLengthClock => intro hexec; cases hexec
  | evEnvelopeClock => intro hexec; cases hexec
  | _ => exact absurd rfl hwindow

theorem issueWord_ne_ringContract {s : State} (h : s.pullInContract) (c : Nat) (w : TxWord) :
    issueWord c w s ≠ .refused .ringContract := by
  cases hd : decode w with
  | error e =>
    rw [issueWord_of_error hd]
    cases e <;> simp [refusalOf]
  | ok i =>
    cases hi : mayIssue s.params.seqSchedule i with
    | false =>
      rw [issueWord_of_not_issuable hd hi]
      simp
    | true =>
      rw [issueWord_of_issuable hd hi]
      exact exec_ne_ringContract (s := s.atIssue c) h i

theorem step_ne_ringContract {s : State} (h : s.pullInContract) : step s ≠ .refused .ringContract := by
  cases hh : s.hostMoves with
  | true =>
    obtain ⟨t, ht, -⟩ := hostStep_of_contract (s := s.advance) h
    rw [step_of_hostMoves hh, ht]
    simp
  | false =>
    cases hc : s.clockMoves with
    | true =>
      rw [step_of_clockMoves hh hc]
      exact exec_ne_ringContract (s := s.atClock) h _
    | false =>
      obtain ⟨-, -, hm⟩ | ⟨c, w, rest, -, -, hm⟩ | ⟨e, -, -, hm⟩ | ⟨c, w, rest, -, -, -, hm⟩ :=
        emulationMove_cases s
      · rw [step_of_stop hh hc hm]
        simp
      · rw [step_of_stop hh hc hm]
        simp
      · rw [step_of_fire hh hc hm]
        exact exec_ne_ringContract (s := s.advance) h _
      · rw [step_of_issue hh hc hm]
        exact issueWord_ne_ringContract h c w

/-- Settles O55: the calls outside the contract, the Tick, and the steps within it, each by its lemma. -/
theorem ringContractIsKept : Obligations.RingContractIsKept := by
  refine ⟨rfl, fun _ _ => rbPeek_of_le, fun s p => step_of_bad_call, fun s p hp hpath hshort =>
    ⟨exec_reset_of_short hp hpath hshort, fun n hdevice hlen => ?_⟩,
    fun s => exec_evTick_of_pending, fun s => step_ne_ringContract⟩
  simp [exec, execHostPull, hdevice, hlen, finishPull_of_short hp hpath hshort]

/-! ### There is always a step -/

theorem exec_clock_exists (c : Clock) (s : State) : ∃ t, exec c.instr s = .next t := by
  cases c <;> exact ⟨_, rfl⟩

/-- Settles O53: HOST and the clock complete, and a `GENERATE` is pending for the context to choose from. -/
theorem emulationNeverStops : Obligations.EmulationNeverStops := by
  intro s h hnil
  cases hh : s.hostMoves with
  | true =>
    obtain ⟨t, ht, -⟩ := hostStep_of_contract (s := s.advance) h.pullContract
    exact ⟨t, by rw [step_of_hostMoves hh, ht, answer_ok]⟩
  | false =>
    cases hc : s.clockMoves with
    | true =>
      rw [step_of_clockMoves hh hc]
      exact exec_clock_exists _ _
    | false =>
      obtain ⟨-, hnone, -⟩ | ⟨c, w, rest, hp, -⟩ | ⟨e, he, -, hm⟩ | ⟨c, w, rest, hp, -⟩ :=
        emulationMove_cases s
      · have hgenerate := h.generatePending
        rw [State.eventsOf, chosenEvent_eq_none hnone] at hgenerate
        cases hgenerate
      · rw [hnil] at hp
        cases hp
      · rw [step_of_fire hh hc hm]
        have hmem : e ∈ s.advance.sched.pending := (chosenEvent_least he).1
        obtain ⟨e', he'⟩ := earliest_eventsOf_exists ⟨e, hmem, rfl⟩
        exact exec_event_exists (s := s.advance) h.pullContract he'
      · rw [hnil] at hp
        cases hp

/-! ### One step of HOST -/

/-- The start of a pull of `k` frames: the snapshot and the path (R310). -/
theorem beginPull_snapshot (s : State) (hidle : s.pull = none) (k : Nat) :
    if 0 < k ∧ 2 * k ≤ s.rb.length then
      (s.beginPull k).out = s.out ∧
        (s.beginPull k).pull =
          some { path := .reading, more := k - 1, avail := s.rb.length, index := 0, made := [] }
    else if 0 < k ∧ 0 < s.rb.length then
      (s.beginPull k).out = s.out ∧
        (s.beginPull k).pull =
          some { path := .peeking, more := k - 1, avail := s.rb.length, index := 0, made := [] }
    else
      (s.beginPull k).out =
          s.out ++ [(s.sched.now, .hostBuffer (List.replicate (4 * k) 0))] ∧
        (s.beginPull k).pull = none := by
  cases k with
  | zero => exact ⟨rfl, hidle⟩
  | succ more =>
    simp only [State.beginPull, Nat.succ_pos, true_and]
    split
    · exact ⟨rfl, rfl⟩
    · by_cases hempty : s.rb.length = 0
      · rw [if_neg (by omega), if_pos hempty, ← silence_bytes]
        exact ⟨rfl, hidle⟩
      · rw [if_pos (by omega), if_neg hempty]
        exact ⟨rfl, rfl⟩

/-- The frame that a running pull's next operation makes: the oldest, or the one at its index. -/
theorem take_of_contract {p : Pull} {rb : List Frame} (h : p.inContract rb) :
    ∃ f rb', p.take rb = .ok (f, rb') ∧
      match p.path with
      | .reading => rb = f :: rb'
      | .peeking => rb' = rb ∧ rb[p.index]? = some f := by
  unfold Pull.take
  cases hpath : p.path with
  | reading =>
    cases rb with
    | nil => exact absurd (h.1 hpath) (Nat.not_lt_zero _)
    | cons f rest => exact ⟨f, rest, rfl, rfl⟩
  | peeking =>
    obtain ⟨hindex, havail⟩ := h.2 hpath
    have hin : p.index < rb.length := Nat.lt_of_lt_of_le hindex havail
    exact ⟨rb[p.index], rb, by simp [rbPeek, hin], rfl, List.getElem?_eq_getElem hin⟩

/-- A running pull's step, with the state it leaves (R310). -/
theorem pullStep_of_take {s : State} {p : Pull} {f : Frame} {rb : List Frame}
    (h : p.take s.rb = .ok (f, rb)) :
    ∃ t, s.pullStep p = .ok t ∧ t.rb = rb ∧
      if p.more = 0 then
        t.out = s.out ++ [(s.sched.now, .hostBuffer ((p.made ++ [f]).flatMap frameBytes))] ∧
          t.pull = none
      else t.out = s.out ∧ t.pull = some (p.next (p.more - 1) f) := by
  simp only [State.pullStep, h]
  cases p.more with
  | zero => exact ⟨_, rfl, rfl, rfl, rfl⟩
  | succ more => exact ⟨_, rfl, rfl, rfl, rfl⟩

/-- Settles O59: the step is HOST's, which touches only its own, and is `beginPull` or `pullStep`. -/
theorem hostStepIsOneRingOperation : Obligations.HostStepIsOneRingOperation := by
  intro s hhost hc
  obtain ⟨t, ht, -⟩ := hostStep_of_contract (s := s.advance) hc
  have honly := hostStep_hostOnly ht
  refine ⟨t, by rw [step_of_hostMoves hhost, ht, answer_ok], by rw [honly]; rfl, ?_⟩
  cases hp : s.pull with
  | none =>
    have hbegin : s.advance.hostStep =
        .ok (s.advance.drawn.beginPull (Config.hostFrames s.advance.draws)) := by
      simp [State.hostStep, hp]
    rw [hbegin] at ht
    cases ht
    exact ⟨Config.hostFrames s.advance.draws, beginPull_rb _ _,
      beginPull_snapshot s.advance.drawn hp _⟩
  | some p =>
    obtain ⟨f, rb, htake, hframe⟩ := take_of_contract (hc p hp)
    obtain ⟨t', ht', hrb, hdone⟩ := pullStep_of_take (s := s.advance) htake
    have hstep : s.advance.hostStep = s.advance.pullStep p := by simp [State.hostStep, hp]
    rw [hstep, ht'] at ht
    cases ht
    subst hrb
    exact ⟨f, hframe, hdone⟩

end Sys2Proof.Machine
end

section
/-! PROOF. What a pull gives is fixed at its snapshot: HOST's steps, a Tick's writes and every instruction
keep what is owed to the host (spec 44_host_pull.md R318; 20_memory.md R98; 60_exceptions.md R352). -/

namespace Sys2Proof.Machine

open Sys2Proof

/-! ### The output that a snapshot fixes -/

/-- An output that is no host buffer's. -/
def quietOutputs (o : List (Nat × Output)) : Prop := ∀ x ∈ o, ∀ b, x.2 ≠ .hostBuffer b

/-- `t` has the pull and the ring buffer of `s`, and has given no host buffer since. -/
def Quiet (s t : State) : Prop :=
  t.pull = s.pull ∧ t.rb = s.rb ∧ ∃ o, t.out = s.out ++ o ∧ quietOutputs o

/-- The frames `F` are to be given to the host after the outputs `out`, or are the first ones given. -/
def Owes (F : List Frame) (out : List (Nat × Output)) (t : State) : Prop :=
  (∃ p o, t.pull = some p ∧ p.inContract t.rb ∧ p.output t.rb = F ∧ t.out = out ++ o ∧
    quietOutputs o) ∨
  ∃ o c o', quietOutputs o ∧ t.out = out ++ o ++ (c, .hostBuffer (F.flatMap frameBytes)) :: o'

theorem quietOutputs_append {o o' : List (Nat × Output)} (h : quietOutputs o) (h' : quietOutputs o') :
    quietOutputs (o ++ o') := by
  intro x hx
  obtain hx | hx := List.mem_append.mp hx
  · exact h x hx
  · exact h' x hx

theorem quietOutputs_singleton {c : Nat} {o : Output} (h : ∀ b, o ≠ .hostBuffer b) :
    quietOutputs [(c, o)] := by
  intro x hx
  rw [List.mem_singleton.mp hx]
  exact h

theorem Quiet.of_out_eq {s t : State} (hpull : t.pull = s.pull) (hrb : t.rb = s.rb)
    (hout : t.out = s.out) : Quiet s t :=
  ⟨hpull, hrb, [], by rw [hout, List.append_nil], fun _ hx => absurd hx List.not_mem_nil⟩

theorem Quiet.of_output {s t : State} {c : Nat} {o : Output} (hpull : t.pull = s.pull)
    (hrb : t.rb = s.rb) (hout : t.out = s.out ++ [(c, o)]) (ho : ∀ b, o ≠ .hostBuffer b) :
    Quiet s t :=
  ⟨hpull, hrb, _, hout, quietOutputs_singleton ho⟩

theorem Quiet.trans {s t u : State} (h : Quiet s t) (h' : Quiet t u) : Quiet s u := by
  obtain ⟨hpull, hrb, o, hout, ho⟩ := h
  obtain ⟨hpull', hrb', o', hout', ho'⟩ := h'
  exact ⟨hpull'.trans hpull, hrb'.trans hrb, o ++ o', by rw [hout', hout, List.append_assoc],
    quietOutputs_append ho ho'⟩

theorem owes_of_running {s : State} {p : Pull} (hp : s.pull = some p) (h : p.inContract s.rb) :
    Owes (p.output s.rb) s.out s :=
  .inl ⟨p, [], hp, h, rfl, (List.append_nil _).symm, fun _ hx => absurd hx List.not_mem_nil⟩

namespace Owes

variable {F : List Frame} {out : List (Nat × Output)} {s t : State}

/-- What has been given stays given. -/
theorem of_given (h : ∃ o c o', quietOutputs o ∧
    s.out = out ++ o ++ (c, .hostBuffer (F.flatMap frameBytes)) :: o') (hg : Grows s t) :
    Owes F out t := by
  obtain ⟨o, c, o', ho, hout⟩ := h
  obtain ⟨o'', ho''⟩ := hg.1
  exact .inr ⟨o, c, o' ++ o'', ho, by rw [← ho'', hout, List.append_assoc, List.cons_append]⟩

theorem quiet (h : Owes F out s) (hq : Quiet s t) (hg : Grows s t) : Owes F out t := by
  obtain ⟨p, o, hp, hc, hF, hout, ho⟩ | hgiven := h
  · obtain ⟨hpull, hrb, o', hout', ho'⟩ := hq
    exact .inl ⟨p, o ++ o', hpull.trans hp, hrb ▸ hc, hrb ▸ hF,
      by rw [hout', hout, List.append_assoc], quietOutputs_append ho ho'⟩
  · exact .of_given hgiven hg

theorem pullStep {p : Pull} (h : Owes F out s) (hp : s.pull = some p) (ht : s.pullStep p = .ok t) :
    Owes F out t := by
  obtain ⟨p', o, hp', hc, hF, hout, ho⟩ | hgiven := h
  · rw [hp] at hp'
    cases hp'
    obtain ⟨f, rb, htake, -, hlast, hnext⟩ := take_spec hc
    simp only [State.pullStep, htake] at ht
    cases hm : p.more with
    | zero =>
      rw [hm] at ht
      cases ht
      refine .inr ⟨o, s.sched.now, [], ho, ?_⟩
      rw [← hF, (hlast hm).1, ← hout]
      rfl
    | succ more =>
      rw [hm] at ht
      cases ht
      obtain ⟨hc', hF', -⟩ := hnext more hm
      exact .inl ⟨_, o, rfl, hc', hF'.trans hF, hout, ho⟩
  · exact .of_given hgiven (pullStep_grows ht)

theorem hostStep (h : Owes F out s) (ht : s.hostStep = .ok t) : Owes F out t := by
  have hgrows := hostStep_grows ht
  unfold State.hostStep at ht
  cases hp : s.pull with
  | some p =>
    rw [hp] at ht
    exact h.pullStep hp ht
  | none =>
    obtain ⟨p, o, hp', -⟩ | hgiven := h
    · rw [hp] at hp'
      cases hp'
    · exact .of_given hgiven hgrows

theorem hostRun (k : Nat) (h : Owes F out s) (ht : hostRun k s = .ok t) : Owes F out t := by
  induction k generalizing s with
  | zero => cases ht; exact h
  | succ k ih =>
    simp only [Machine.hostRun] at ht
    split at ht
    · split at ht
      · cases ht
      · next hstep => exact ih (h.hostStep hstep) ht
    · cases ht; exact h

theorem hostInterlude (h : Owes F out s) (ht : s.hostInterlude = .ok t) : Owes F out t := by
  unfold State.hostInterlude at ht
  split at ht
  · exact (h.quiet (t := s.drawn) (.of_out_eq rfl rfl rfl) (drawn_grows s)).hostRun _ ht
  · cases ht; exact h

theorem writeFrame (h : Owes F out s) (f : Frame) : Owes F out (s.writeFrame f) := by
  obtain ⟨p, o, hp, hc, hF, hout, ho⟩ | hgiven := h
  · obtain ⟨hc', hF'⟩ := output_rbWrite hc s.params.ringCapacity f
    exact .inl ⟨p, o, hp, hc', hF'.trans hF, hout, ho⟩
  · exact .inr hgiven

theorem produce (fs : List Frame) (h : Owes F out s) (ht : produce fs s = .ok t) : Owes F out t := by
  induction fs generalizing s with
  | nil => cases ht; exact h
  | cons f fs ih =>
    simp only [Machine.produce] at ht
    split at ht
    · cases ht
    · next hhost => exact ih ((h.hostInterlude hhost).writeFrame f) ht

theorem pushFrame {f : Frame} (h : Owes F out s) (ht : s.pushFrame f = .ok t) : Owes F out t := by
  rw [pushFrame_eq] at ht
  exact (h.quiet (t := { s with rs := (s.rs.push s.params.resampler f).1 })
    (.of_out_eq rfl rfl rfl) (.refl s)).produce _ ht

theorem finishPull (h : Owes F out s) (ht : s.finishPull = .ok t) : Owes F out t := by
  obtain ⟨p, o, hp, hc, hF, hout, ho⟩ | hgiven := h
  · rw [finishPull_of_some hp hc] at ht
    cases ht
    refine .inr ⟨o, s.sched.now, [], ho, ?_⟩
    rw [← hF, ← hout]
    rfl
  · exact .of_given hgiven (finishPull_grows ht)

/-- Where no pull is running, the output has been given, and stays so. -/
theorem of_idle (h : Owes F out s) (hidle : s.pull = none) (hg : Grows s t) : Owes F out t := by
  obtain ⟨p, o, hp, -⟩ | hgiven := h
  · rw [hidle] at hp
    cases hp
  · exact .of_given hgiven hg

end Owes

/-! ### The instructions in which HOST has no step -/

theorem seqLength_quiet (s : State) : Quiet s s.seqLength := by
  unfold State.seqLength
  split
  · exact .of_output rfl rfl rfl (by simp)
  · exact .of_out_eq rfl rfl rfl

theorem seqEnvelope_quiet (s : State) : Quiet s s.seqEnvelope := by
  unfold State.seqEnvelope
  split
  · exact .of_output rfl rfl rfl (by simp)
  · exact .of_out_eq rfl rfl rfl

theorem beginFiring_quiet (s : State) (e : Event) : Quiet s (s.beginFiring e) :=
  .of_output rfl rfl (State.beginFiring_out s e) (by simp)

theorem retune_quiet (s : State) : Quiet s s.retune :=
  .of_out_eq s.retune_pull s.retune_rb s.retune_out

theorem resetBlock_quiet (s : State) : Quiet s s.resetBlock :=
  .of_out_eq (resetBlock_pull s) (resetBlock_rb s) (by rw [resetBlock_frame])

theorem exec_latchFifo_quiet {i : FifoId} {k : Nat} {s t : State}
    (h : exec (.latchFifo i k) s = .next t) : Quiet s t := by
  cases h
  refine ⟨by simp, by simp, _, drain_out i k (s.takeArrivals i), fun x hx b => ?_⟩
  rw [List.eq_of_mem_replicate hx]
  simp

theorem exec_window_quiet {i : Instr} {s t : State} (hw : windowTransaction i = true)
    (h : exec i s = .next t) : Quiet s t := by
  obtain ⟨o, rfl⟩ | ⟨o, d, rfl⟩ := windowTransaction_cases hw
  · rw [exec_noiseRead] at h
    cases h
    exact .of_output rfl rfl rfl (by simp)
  · obtain ⟨f, g, hwrite⟩ := exec_noiseWrite_acts o d
    rw [hwrite] at h
    cases h
    exact .of_out_eq rfl rfl rfl

theorem exec_evSeq_quiet {s t : State} (h : exec .evSeq s = .next t) : Quiet s t := by
  obtain ⟨e, -, rfl⟩ := exec_evSeq_next h
  exact (((beginFiring_quiet s e).trans (seqLength_quiet _)).trans (seqEnvelope_quiet _)).trans
    (.of_out_eq rfl rfl rfl)

theorem exec_evGenerate_quiet {s t : State} (h : exec .evGenerate s = .next t) : Quiet s t := by
  have hframe := exec_evGenerate_frame h
  exact .of_output (by rw [hframe]) (by rw [hframe]) (exec_evGenerate_out h) (by simp)

/-- Every instruction keeps what is owed to the host. -/
theorem exec_owes {i : Instr} {F : List Frame} {out : List (Nat × Output)} {s t : State}
    (h : Owes F out s) (hexec : exec i s = .next t) : Owes F out t := by
  have hgrows := exec_grows hexec
  by_cases hwindow : windowTransaction i = true
  · exact h.quiet (exec_window_quiet hwindow hexec) hgrows
  cases i with
  | biasWr l r => cases hexec; exact h.quiet (.of_out_eq rfl rfl rfl) hgrows
  | latchFifo i k => exact h.quiet (exec_latchFifo_quiet hexec) hgrows
  | hostPull n =>
    obtain ⟨-, -, u, hu, ht⟩ := exec_hostPull_next hexec
    exact (h.finishPull hu).of_idle (finishPull_pull hu)
      ((beginPull_grows u _).trans (runPull_grows _ ht))
  | reset =>
    obtain ⟨u, hu, rfl⟩ := exec_reset_next hexec
    have hu' := (h.quiet (resetBlock_quiet s) (resetBlock_grows s)).finishPull hu
    exact hu'.of_idle (finishPull_pull hu) ⟨List.prefix_append u.out _, Nat.le_succ u.draws⟩
  | evGenerate => exact h.quiet (exec_evGenerate_quiet hexec) hgrows
  | evTick =>
    obtain ⟨e, u, -, hu, rfl⟩ := exec_evTick_next hexec
    have hfired := h.quiet (beginFiring_quiet s e) (beginFiring_grows s e)
    exact ((hfired.quiet (retune_quiet _) (retune_grows _)).pushFrame hu).quiet
      (.of_out_eq rfl rfl rfl) (drawn_grows u)
  | evSeq => exact h.quiet (exec_evSeq_quiet hexec) hgrows
  | evLengthClock => cases hexec; exact h.quiet (.of_out_eq rfl rfl rfl) hgrows
  | evEnvelopeClock => cases hexec; exact h.quiet (.of_out_eq rfl rfl rfl) hgrows
  | _ => exact absurd rfl hwindow

/-- Settles O60: a running pull owes its output, and HOST's step and every instruction keep what is
owed. -/
theorem pullOutputIsFixedAtItsSnapshot : Obligations.PullOutputIsFixedAtItsSnapshot := by
  intro s t p hp hc hstep
  have howes : Owes (p.output s.rb) s.out s := owes_of_running hp hc
  have ht : Owes (p.output s.rb) s.out t := by
    obtain ⟨-, hhost⟩ | ⟨-, -, hexec⟩ | ⟨x, -, -, hexec⟩ | ⟨c, w, rest, i, -, -, -, hexec⟩ :=
      step_next_cases hstep
    · exact Owes.hostStep (s := s.advance) howes hhost
    · exact exec_owes (s := s.atClock) howes hexec
    · exact exec_owes (s := s.advance) howes hexec
    · exact exec_owes (s := s.atIssue c) howes hexec
  obtain ⟨p', o, hp', hc', hF, hout, ho⟩ | hgiven := ht
  · exact .inl ⟨p', o, hp', hc', hF, hout, ho⟩
  · exact .inr hgiven

end Sys2Proof.Machine
end
